-- ==== Sys2Proof/Word.lean ====
section
/-! DEFINITION. The word types of the block (00_scope.md rule R5): 32-bit registers and addresses, 8-bit memory bytes,
64-bit extension registers. -/

namespace Sys2Proof

/-- A register, an address, an instruction word: 32 bits (R5). -/
abbrev Word := BitVec 32

/-- A doubleword extension register, and the widest value a port call carries: 64 bits (R5, R60). -/
abbrev DWord := BitVec 64

/-- A byte of memory: 8 bits (R5). -/
abbrev Byte := BitVec 8

/-- A core register number, 0 to 15 (R98). -/
abbrev RegNum := BitVec 4

end Sys2Proof
end

