-- ==== Sys2Proof/Config.lean ====
section
/-! DEFINITION. What is fixed for one instance of the block: the architecture variants (10_state.md rule R24), the
parameters (00_scope.md rule R6) and the free value of the spec (`UnknownBits32()`, 20_memory.md rule R79). -/

namespace Sys2Proof

/-- The architecture variants of rule R24, in the order of their ordinals 0 to 10; `unknown` is ordinal 0, "unrecognised,
or none given since reset". -/
inductive ArchVariant where
  | unknown | armv4 | armv4t | armv5t | armv5te | armv5tej | armv6 | armv6k | armv6t2 | armv7 | armv8
  deriving DecidableEq, Repr

/-- The four variant sets a decode-table row can carry (R24, R91). -/
inductive VariantSet where
  | all | v4tAbove | v5tAbove | v6t2Above
  deriving DecidableEq, Repr

/-- The parameters of the block and of the reference run loop (R6). They are fixed when the instance is created and no
command changes them; State carries them so that every statement covers every setting (log 1). -/
structure Params where
  /-- `STRICT_VARIANT_GATING`: the scan skips rows whose variant set excludes `ARCH` (R93). -/
  strictVariantGating : Bool
  /-- `STRICT_COND_1111`: an ARM word with bits 31:28 = 1111 is accepted for BLX (immediate) A2 only (R94). -/
  strictCond1111 : Bool
  /-- `AUTO_ADVANCE_PC`: the driver advances the PC after an instruction that wrote none (R389). -/
  autoAdvancePc : Bool
  /-- `HALT_ADDRESS`: the end-of-run address of the reference run loop (R393). -/
  haltAddress : Option Word
  deriving DecidableEq, Repr

/-- The defaults of rule R6. -/
def Params.default : Params :=
  { strictVariantGating := false, strictCond1111 := false, autoAdvancePc := true, haltAddress := none }

/-- `UnknownBits32()` (R6, R79): the value of the n-th draw. It has no body: a draw is a free value (log 6). -/
opaque Config.unknownBits32 : Nat → Word

end Sys2Proof
end

