-- ==== Sys2Proof/Syntax.lean ====
section
/-! DEFINITION. The instructions: one constructor for each row of the two decode tables (30_encoding.md rules R100 and
R101, spec/opcode_table.json), with the fields of the row's format (rules R102 to R104) as its operands.

A constructor's name is the row's mnemonic, the form (`Imm` immediate, `Reg` register, `Lit` literal, `SpImm` SP plus or
minus immediate) and the encoding tag (rule R122). Fields keep the names of the formats: `regs` is register_list, `setS` the
flag-setting bit S, `sgn` the sign bit S of a branch offset, `ty` the shift type, `m`, `p`, `u`, `w` the bits M, P, U, W,
`dbit`, `dn`, `nbit`, `i1`, `j1`, `j2`, `h` the bits D, DN, N, i, J1, J2, H. -/

namespace Sys2Proof

/-- The instruction set an instruction is fetched in (`INST.mode`, 10_state.md rule R22). -/
inductive InstrSet where
  | arm | thumb
  deriving DecidableEq, Repr

/-- The width of an instruction: 16 or 32 bits (R22, R91). -/
inductive Width where
  | w16 | w32
  deriving DecidableEq, Repr

/-- The instructions of the subset (00_scope.md rule R3), one constructor per decode-table row. -/
inductive Instr where
  -- ARM rows, 32 bits (rule R100)
  | pushA1 (cond : BitVec 4) (regs : BitVec 16)
  | pushA2 (cond : BitVec 4) (rt : BitVec 4)
  | vpushA1 (cond : BitVec 4) (dbit : BitVec 1) (vd : BitVec 4) (imm8 : BitVec 8)
  | vpushA2 (cond : BitVec 4) (dbit : BitVec 1) (vd : BitVec 4) (imm8 : BitVec 8)
  | popA1 (cond : BitVec 4) (regs : BitVec 16)
  | popA2 (cond : BitVec 4) (rt : BitVec 4)
  | vpopA1 (cond : BitVec 4) (dbit : BitVec 1) (vd : BitVec 4) (imm8 : BitVec 8)
  | vpopA2 (cond : BitVec 4) (dbit : BitVec 1) (vd : BitVec 4) (imm8 : BitVec 8)
  | svcA1 (cond : BitVec 4) (imm24 : BitVec 24)
  | blxImmA2 (h : BitVec 1) (imm24 : BitVec 24)
  | bA1 (cond : BitVec 4) (imm24 : BitVec 24)
  | blImmA1 (cond : BitVec 4) (imm24 : BitVec 24)
  | blxRegA1 (cond : BitVec 4) (rm : BitVec 4)
  | bxA1 (cond : BitVec 4) (rm : BitVec 4)
  | adcImmA1 (cond : BitVec 4) (setS : Bool) (rn : BitVec 4) (rd : BitVec 4) (imm12 : BitVec 12)
  | adcRegA1 (cond : BitVec 4) (setS : Bool) (rn : BitVec 4) (rd : BitVec 4) (imm5 : BitVec 5) (ty : BitVec 2) (rm : BitVec 4)
  | addImmA1 (cond : BitVec 4) (setS : Bool) (rn : BitVec 4) (rd : BitVec 4) (imm12 : BitVec 12)
  | addRegA1 (cond : BitVec 4) (setS : Bool) (rn : BitVec 4) (rd : BitVec 4) (imm5 : BitVec 5) (ty : BitVec 2) (rm : BitVec 4)
  | andImmA1 (cond : BitVec 4) (setS : Bool) (rn : BitVec 4) (rd : BitVec 4) (imm12 : BitVec 12)
  | andRegA1 (cond : BitVec 4) (setS : Bool) (rn : BitVec 4) (rd : BitVec 4) (imm5 : BitVec 5) (ty : BitVec 2) (rm : BitVec 4)
  | eorImmA1 (cond : BitVec 4) (setS : Bool) (rn : BitVec 4) (rd : BitVec 4) (imm12 : BitVec 12)
  | eorRegA1 (cond : BitVec 4) (setS : Bool) (rn : BitVec 4) (rd : BitVec 4) (imm5 : BitVec 5) (ty : BitVec 2) (rm : BitVec 4)
  | orrImmA1 (cond : BitVec 4) (setS : Bool) (rn : BitVec 4) (rd : BitVec 4) (imm12 : BitVec 12)
  | orrRegA1 (cond : BitVec 4) (setS : Bool) (rn : BitVec 4) (rd : BitVec 4) (imm5 : BitVec 5) (ty : BitVec 2) (rm : BitVec 4)
  | rsbImmA1 (cond : BitVec 4) (setS : Bool) (rn : BitVec 4) (rd : BitVec 4) (imm12 : BitVec 12)
  | rsbRegA1 (cond : BitVec 4) (setS : Bool) (rn : BitVec 4) (rd : BitVec 4) (imm5 : BitVec 5) (ty : BitVec 2) (rm : BitVec 4)
  | rscImmA1 (cond : BitVec 4) (setS : Bool) (rn : BitVec 4) (rd : BitVec 4) (imm12 : BitVec 12)
  | rscRegA1 (cond : BitVec 4) (setS : Bool) (rn : BitVec 4) (rd : BitVec 4) (imm5 : BitVec 5) (ty : BitVec 2) (rm : BitVec 4)
  | subImmA1 (cond : BitVec 4) (setS : Bool) (rn : BitVec 4) (rd : BitVec 4) (imm12 : BitVec 12)
  | subRegA1 (cond : BitVec 4) (setS : Bool) (rn : BitVec 4) (rd : BitVec 4) (imm5 : BitVec 5) (ty : BitVec 2) (rm : BitVec 4)
  | teqImmA1 (cond : BitVec 4) (rn : BitVec 4) (imm12 : BitVec 12)
  | teqRegA1 (cond : BitVec 4) (rn : BitVec 4) (imm5 : BitVec 5) (ty : BitVec 2) (rm : BitVec 4)
  | tstImmA1 (cond : BitVec 4) (rn : BitVec 4) (imm12 : BitVec 12)
  | tstRegA1 (cond : BitVec 4) (rn : BitVec 4) (imm5 : BitVec 5) (ty : BitVec 2) (rm : BitVec 4)
  | mvnImmA1 (cond : BitVec 4) (setS : Bool) (rd : BitVec 4) (imm12 : BitVec 12)
  | mvnRegA1 (cond : BitVec 4) (setS : Bool) (rd : BitVec 4) (imm5 : BitVec 5) (ty : BitVec 2) (rm : BitVec 4)
  | cmnImmA1 (cond : BitVec 4) (rn : BitVec 4) (imm12 : BitVec 12)
  | cmnRegA1 (cond : BitVec 4) (rn : BitVec 4) (imm5 : BitVec 5) (ty : BitVec 2) (rm : BitVec 4)
  | cmpImmA1 (cond : BitVec 4) (rn : BitVec 4) (imm12 : BitVec 12)
  | cmpRegA1 (cond : BitVec 4) (rn : BitVec 4) (imm5 : BitVec 5) (ty : BitVec 2) (rm : BitVec 4)
  | asrImmA1 (cond : BitVec 4) (setS : Bool) (rd : BitVec 4) (imm5 : BitVec 5) (rm : BitVec 4)
  | asrRegA1 (cond : BitVec 4) (setS : Bool) (rd : BitVec 4) (rm : BitVec 4) (rn : BitVec 4)
  | lslImmA1 (cond : BitVec 4) (setS : Bool) (rd : BitVec 4) (imm5 : BitVec 5) (rm : BitVec 4)
  | lslRegA1 (cond : BitVec 4) (setS : Bool) (rd : BitVec 4) (rm : BitVec 4) (rn : BitVec 4)
  | lsrImmA1 (cond : BitVec 4) (setS : Bool) (rd : BitVec 4) (imm5 : BitVec 5) (rm : BitVec 4)
  | lsrRegA1 (cond : BitVec 4) (setS : Bool) (rd : BitVec 4) (rm : BitVec 4) (rn : BitVec 4)
  | rrxA1 (cond : BitVec 4) (setS : Bool) (rd : BitVec 4) (rm : BitVec 4)
  | rorImmA1 (cond : BitVec 4) (setS : Bool) (rd : BitVec 4) (imm5 : BitVec 5) (rm : BitVec 4)
  | rorRegA1 (cond : BitVec 4) (setS : Bool) (rd : BitVec 4) (rm : BitVec 4) (rn : BitVec 4)
  | ldmA1 (cond : BitVec 4) (w : Bool) (rn : BitVec 4) (regs : BitVec 16)
  | ldmdaA1 (cond : BitVec 4) (w : Bool) (rn : BitVec 4) (regs : BitVec 16)
  | ldmdbA1 (cond : BitVec 4) (w : Bool) (rn : BitVec 4) (regs : BitVec 16)
  | ldmibA1 (cond : BitVec 4) (w : Bool) (rn : BitVec 4) (regs : BitVec 16)
  | ldrLitA1 (cond : BitVec 4) (u : Bool) (rt : BitVec 4) (imm12 : BitVec 12)
  | ldrImmA1 (cond : BitVec 4) (p : Bool) (u : Bool) (w : Bool) (rn : BitVec 4) (rt : BitVec 4) (imm12 : BitVec 12)
  | ldrRegA1 (cond : BitVec 4) (p : Bool) (u : Bool) (w : Bool) (rn : BitVec 4) (rt : BitVec 4) (imm5 : BitVec 5) (ty : BitVec 2) (rm : BitVec 4)
  | ldrbLitA1 (cond : BitVec 4) (u : Bool) (rt : BitVec 4) (imm12 : BitVec 12)
  | ldrbImmA1 (cond : BitVec 4) (p : Bool) (u : Bool) (w : Bool) (rn : BitVec 4) (rt : BitVec 4) (imm12 : BitVec 12)
  | ldrbRegA1 (cond : BitVec 4) (p : Bool) (u : Bool) (w : Bool) (rn : BitVec 4) (rt : BitVec 4) (imm5 : BitVec 5) (ty : BitVec 2) (rm : BitVec 4)
  | stmA1 (cond : BitVec 4) (w : Bool) (rn : BitVec 4) (regs : BitVec 16)
  | stmdaA1 (cond : BitVec 4) (w : Bool) (rn : BitVec 4) (regs : BitVec 16)
  | stmdbA1 (cond : BitVec 4) (w : Bool) (rn : BitVec 4) (regs : BitVec 16)
  | stmibA1 (cond : BitVec 4) (w : Bool) (rn : BitVec 4) (regs : BitVec 16)
  | strImmA1 (cond : BitVec 4) (p : Bool) (u : Bool) (w : Bool) (rn : BitVec 4) (rt : BitVec 4) (imm12 : BitVec 12)
  | strRegA1 (cond : BitVec 4) (p : Bool) (u : Bool) (w : Bool) (rn : BitVec 4) (rt : BitVec 4) (imm5 : BitVec 5) (ty : BitVec 2) (rm : BitVec 4)
  | strbImmA1 (cond : BitVec 4) (p : Bool) (u : Bool) (w : Bool) (rn : BitVec 4) (rt : BitVec 4) (imm12 : BitVec 12)
  | strbRegA1 (cond : BitVec 4) (p : Bool) (u : Bool) (w : Bool) (rn : BitVec 4) (rt : BitVec 4) (imm5 : BitVec 5) (ty : BitVec 2) (rm : BitVec 4)
  -- Thumb rows, 16 bits (rule R101)
  | pushT1 (m : Bool) (regs : BitVec 8)
  | popT1 (p : Bool) (regs : BitVec 8)
  | addSpImmT1 (rd : BitVec 3) (imm8 : BitVec 8)
  | addSpImmT2 (imm7 : BitVec 7)
  | subSpImmT1 (imm7 : BitVec 7)
  | svcT1 (imm8 : BitVec 8)
  | bT1 (cond : BitVec 4) (imm8 : BitVec 8)
  | bT2 (imm11 : BitVec 11)
  | blxRegT1 (rm : BitVec 4)
  | bxT1 (rm : BitVec 4)
  | cbzT1 (i1 : BitVec 1) (imm5 : BitVec 5) (rn : BitVec 3)
  | cbnzT1 (i1 : BitVec 1) (imm5 : BitVec 5) (rn : BitVec 3)
  | itT1 (firstcond : BitVec 4) (mask : BitVec 4)
  | adcRegT1 (rm : BitVec 3) (rdn : BitVec 3)
  | addImmT1 (imm3 : BitVec 3) (rn : BitVec 3) (rd : BitVec 3)
  | addImmT2 (rdn : BitVec 3) (imm8 : BitVec 8)
  | addRegT1 (rm : BitVec 3) (rn : BitVec 3) (rd : BitVec 3)
  | addRegT2 (dn : BitVec 1) (rm : BitVec 4) (rdn : BitVec 3)
  | andRegT1 (rm : BitVec 3) (rdn : BitVec 3)
  | eorRegT1 (rm : BitVec 3) (rdn : BitVec 3)
  | orrRegT1 (rm : BitVec 3) (rdn : BitVec 3)
  | mvnRegT1 (rm : BitVec 3) (rd : BitVec 3)
  | rsbImmT1 (rn : BitVec 3) (rd : BitVec 3)
  | subImmT1 (imm3 : BitVec 3) (rn : BitVec 3) (rd : BitVec 3)
  | subImmT2 (rdn : BitVec 3) (imm8 : BitVec 8)
  | subRegT1 (rm : BitVec 3) (rn : BitVec 3) (rd : BitVec 3)
  | cmpImmT1 (rn : BitVec 3) (imm8 : BitVec 8)
  | cmpRegT1 (rm : BitVec 3) (rn : BitVec 3)
  | cmpRegT2 (nbit : BitVec 1) (rm : BitVec 4) (rn : BitVec 3)
  | cmnRegT1 (rm : BitVec 3) (rn : BitVec 3)
  | tstRegT1 (rm : BitVec 3) (rn : BitVec 3)
  | asrImmT1 (imm5 : BitVec 5) (rm : BitVec 3) (rd : BitVec 3)
  | asrRegT1 (rm : BitVec 3) (rdn : BitVec 3)
  | lslImmT1 (imm5 : BitVec 5) (rm : BitVec 3) (rd : BitVec 3)
  | lslRegT1 (rm : BitVec 3) (rdn : BitVec 3)
  | lsrImmT1 (imm5 : BitVec 5) (rm : BitVec 3) (rd : BitVec 3)
  | lsrRegT1 (rm : BitVec 3) (rdn : BitVec 3)
  | rorRegT1 (rm : BitVec 3) (rdn : BitVec 3)
  | ldmT1 (rn : BitVec 3) (regs : BitVec 8)
  | stmT1 (rn : BitVec 3) (regs : BitVec 8)
  | ldrImmT1 (imm5 : BitVec 5) (rn : BitVec 3) (rt : BitVec 3)
  | ldrImmT2 (rt : BitVec 3) (imm8 : BitVec 8)
  | ldrLitT1 (rt : BitVec 3) (imm8 : BitVec 8)
  | ldrRegT1 (rm : BitVec 3) (rn : BitVec 3) (rt : BitVec 3)
  | strImmT1 (imm5 : BitVec 5) (rn : BitVec 3) (rt : BitVec 3)
  | strImmT2 (rt : BitVec 3) (imm8 : BitVec 8)
  | strRegT1 (rm : BitVec 3) (rn : BitVec 3) (rt : BitVec 3)
  | ldrbImmT1 (imm5 : BitVec 5) (rn : BitVec 3) (rt : BitVec 3)
  | ldrbRegT1 (rm : BitVec 3) (rn : BitVec 3) (rt : BitVec 3)
  | strbImmT1 (imm5 : BitVec 5) (rn : BitVec 3) (rt : BitVec 3)
  | strbRegT1 (rm : BitVec 3) (rn : BitVec 3) (rt : BitVec 3)
  -- Thumb rows, 32 bits (rule R101)
  | pushT2 (m : Bool) (regs : BitVec 13)
  | pushT3 (rt : BitVec 4)
  | popT2 (p : Bool) (m : Bool) (regs : BitVec 13)
  | popT3 (rt : BitVec 4)
  | vpushT1 (dbit : BitVec 1) (vd : BitVec 4) (imm8 : BitVec 8)
  | vpushT2 (dbit : BitVec 1) (vd : BitVec 4) (imm8 : BitVec 8)
  | vpopT1 (dbit : BitVec 1) (vd : BitVec 4) (imm8 : BitVec 8)
  | vpopT2 (dbit : BitVec 1) (vd : BitVec 4) (imm8 : BitVec 8)
  | bT3 (sgn : BitVec 1) (cond : BitVec 4) (imm6 : BitVec 6) (j1 : BitVec 1) (j2 : BitVec 1) (imm11 : BitVec 11)
  | bT4 (sgn : BitVec 1) (imm10 : BitVec 10) (j1 : BitVec 1) (j2 : BitVec 1) (imm11 : BitVec 11)
  | blxImmT2 (sgn : BitVec 1) (imm10h : BitVec 10) (j1 : BitVec 1) (j2 : BitVec 1) (imm10l : BitVec 10) (h : BitVec 1)
  | blImmT1 (sgn : BitVec 1) (imm10 : BitVec 10) (j1 : BitVec 1) (j2 : BitVec 1) (imm11 : BitVec 11)
  | tbbT1 (rn : BitVec 4) (rm : BitVec 4)
  | tbhT1 (rn : BitVec 4) (rm : BitVec 4)
  | cmnImmT1 (i1 : BitVec 1) (rn : BitVec 4) (imm3 : BitVec 3) (imm8 : BitVec 8)
  | cmpImmT2 (i1 : BitVec 1) (rn : BitVec 4) (imm3 : BitVec 3) (imm8 : BitVec 8)
  | tstImmT1 (i1 : BitVec 1) (rn : BitVec 4) (imm3 : BitVec 3) (imm8 : BitVec 8)
  | teqImmT1 (i1 : BitVec 1) (rn : BitVec 4) (imm3 : BitVec 3) (imm8 : BitVec 8)
  | cmnRegT2 (rn : BitVec 4) (imm3 : BitVec 3) (imm2 : BitVec 2) (ty : BitVec 2) (rm : BitVec 4)
  | cmpRegT3 (rn : BitVec 4) (imm3 : BitVec 3) (imm2 : BitVec 2) (ty : BitVec 2) (rm : BitVec 4)
  | tstRegT2 (rn : BitVec 4) (imm3 : BitVec 3) (imm2 : BitVec 2) (ty : BitVec 2) (rm : BitVec 4)
  | teqRegT1 (rn : BitVec 4) (imm3 : BitVec 3) (imm2 : BitVec 2) (ty : BitVec 2) (rm : BitVec 4)
  | adcImmT1 (i1 : BitVec 1) (setS : Bool) (rn : BitVec 4) (imm3 : BitVec 3) (rd : BitVec 4) (imm8 : BitVec 8)
  | adcRegT2 (setS : Bool) (rn : BitVec 4) (imm3 : BitVec 3) (rd : BitVec 4) (imm2 : BitVec 2) (ty : BitVec 2) (rm : BitVec 4)
  | addImmT3 (i1 : BitVec 1) (setS : Bool) (rn : BitVec 4) (imm3 : BitVec 3) (rd : BitVec 4) (imm8 : BitVec 8)
  | addImmT4 (i1 : BitVec 1) (rn : BitVec 4) (imm3 : BitVec 3) (rd : BitVec 4) (imm8 : BitVec 8)
  | addRegT3 (setS : Bool) (rn : BitVec 4) (imm3 : BitVec 3) (rd : BitVec 4) (imm2 : BitVec 2) (ty : BitVec 2) (rm : BitVec 4)
  | andImmT1 (i1 : BitVec 1) (setS : Bool) (rn : BitVec 4) (imm3 : BitVec 3) (rd : BitVec 4) (imm8 : BitVec 8)
  | andRegT2 (setS : Bool) (rn : BitVec 4) (imm3 : BitVec 3) (rd : BitVec 4) (imm2 : BitVec 2) (ty : BitVec 2) (rm : BitVec 4)
  | eorImmT1 (i1 : BitVec 1) (setS : Bool) (rn : BitVec 4) (imm3 : BitVec 3) (rd : BitVec 4) (imm8 : BitVec 8)
  | eorRegT2 (setS : Bool) (rn : BitVec 4) (imm3 : BitVec 3) (rd : BitVec 4) (imm2 : BitVec 2) (ty : BitVec 2) (rm : BitVec 4)
  | mvnImmT1 (i1 : BitVec 1) (setS : Bool) (imm3 : BitVec 3) (rd : BitVec 4) (imm8 : BitVec 8)
  | mvnRegT2 (setS : Bool) (imm3 : BitVec 3) (rd : BitVec 4) (imm2 : BitVec 2) (ty : BitVec 2) (rm : BitVec 4)
  | lslImmT2 (setS : Bool) (imm3 : BitVec 3) (rd : BitVec 4) (imm2 : BitVec 2) (rm : BitVec 4)
  | lsrImmT2 (setS : Bool) (imm3 : BitVec 3) (rd : BitVec 4) (imm2 : BitVec 2) (rm : BitVec 4)
  | asrImmT2 (setS : Bool) (imm3 : BitVec 3) (rd : BitVec 4) (imm2 : BitVec 2) (rm : BitVec 4)
  | rrxT1 (setS : Bool) (rd : BitVec 4) (rm : BitVec 4)
  | rorImmT1 (setS : Bool) (imm3 : BitVec 3) (rd : BitVec 4) (imm2 : BitVec 2) (rm : BitVec 4)
  | orrImmT1 (i1 : BitVec 1) (setS : Bool) (rn : BitVec 4) (imm3 : BitVec 3) (rd : BitVec 4) (imm8 : BitVec 8)
  | orrRegT2 (setS : Bool) (rn : BitVec 4) (imm3 : BitVec 3) (rd : BitVec 4) (imm2 : BitVec 2) (ty : BitVec 2) (rm : BitVec 4)
  | rsbImmT2 (i1 : BitVec 1) (setS : Bool) (rn : BitVec 4) (imm3 : BitVec 3) (rd : BitVec 4) (imm8 : BitVec 8)
  | rsbRegT1 (setS : Bool) (rn : BitVec 4) (imm3 : BitVec 3) (rd : BitVec 4) (imm2 : BitVec 2) (ty : BitVec 2) (rm : BitVec 4)
  | subImmT3 (i1 : BitVec 1) (setS : Bool) (rn : BitVec 4) (imm3 : BitVec 3) (rd : BitVec 4) (imm8 : BitVec 8)
  | subImmT4 (i1 : BitVec 1) (rn : BitVec 4) (imm3 : BitVec 3) (rd : BitVec 4) (imm8 : BitVec 8)
  | subRegT2 (setS : Bool) (rn : BitVec 4) (imm3 : BitVec 3) (rd : BitVec 4) (imm2 : BitVec 2) (ty : BitVec 2) (rm : BitVec 4)
  | asrRegT2 (setS : Bool) (rn : BitVec 4) (rd : BitVec 4) (rm : BitVec 4)
  | lslRegT2 (setS : Bool) (rn : BitVec 4) (rd : BitVec 4) (rm : BitVec 4)
  | lsrRegT2 (setS : Bool) (rn : BitVec 4) (rd : BitVec 4) (rm : BitVec 4)
  | rorRegT2 (setS : Bool) (rn : BitVec 4) (rd : BitVec 4) (rm : BitVec 4)
  | ldmT2 (w : Bool) (rn : BitVec 4) (p : Bool) (m : Bool) (regs : BitVec 13)
  | ldmdbT1 (w : Bool) (rn : BitVec 4) (p : Bool) (m : Bool) (regs : BitVec 13)
  | stmT2 (w : Bool) (rn : BitVec 4) (m : Bool) (regs : BitVec 13)
  | stmdbT1 (w : Bool) (rn : BitVec 4) (m : Bool) (regs : BitVec 13)
  | ldrLitT2 (u : Bool) (rt : BitVec 4) (imm12 : BitVec 12)
  | ldrImmT3 (rn : BitVec 4) (rt : BitVec 4) (imm12 : BitVec 12)
  | ldrImmT4 (rn : BitVec 4) (rt : BitVec 4) (p : Bool) (u : Bool) (w : Bool) (imm8 : BitVec 8)
  | ldrRegT2 (rn : BitVec 4) (rt : BitVec 4) (imm2 : BitVec 2) (rm : BitVec 4)
  | ldrbLitT1 (u : Bool) (rt : BitVec 4) (imm12 : BitVec 12)
  | ldrbImmT2 (rn : BitVec 4) (rt : BitVec 4) (imm12 : BitVec 12)
  | ldrbImmT3 (rn : BitVec 4) (rt : BitVec 4) (p : Bool) (u : Bool) (w : Bool) (imm8 : BitVec 8)
  | ldrbRegT2 (rn : BitVec 4) (rt : BitVec 4) (imm2 : BitVec 2) (rm : BitVec 4)
  | strImmT3 (rn : BitVec 4) (rt : BitVec 4) (imm12 : BitVec 12)
  | strImmT4 (rn : BitVec 4) (rt : BitVec 4) (p : Bool) (u : Bool) (w : Bool) (imm8 : BitVec 8)
  | strRegT2 (rn : BitVec 4) (rt : BitVec 4) (imm2 : BitVec 2) (rm : BitVec 4)
  | strbImmT2 (rn : BitVec 4) (rt : BitVec 4) (imm12 : BitVec 12)
  | strbImmT3 (rn : BitVec 4) (rt : BitVec 4) (p : Bool) (u : Bool) (w : Bool) (imm8 : BitVec 8)
  | strbRegT2 (rn : BitVec 4) (rt : BitVec 4) (imm2 : BitVec 2) (rm : BitVec 4)
  deriving DecidableEq, Repr

end Sys2Proof
end

