-- ==== Sys2Proof/WellFormed.lean ====
section
/-! DEFINITION. Which terms of `Instr` are the reading of a word. The width of every field is in its type; what is left is
the order of the decode tables (30_encoding.md rules R92 and R99): a word that an earlier row of the table matches is that
row's instruction, so the same fields under the later row's constructor name no instruction. The checks below are the pairs
of rule R99, one line for each later row. -/

namespace Sys2Proof

/-- No earlier row of the table claims the word of this instruction (R99). -/
def Instr.wellFormed : Instr → Bool
  -- BLX (immediate) A2 comes first
  | .bA1 cond _ => cond != 15
  -- BLX (immediate) A2 comes first
  | .blImmA1 cond _ => cond != 15
  -- RRX A1 comes first
  | .rorImmA1 _ _ _ imm5 _ => imm5 != 0
  -- POP A1 comes first
  | .ldmA1 _ w rn _ => !(w && rn == 13)
  -- POP A2, LDR (literal) A1 comes first
  | .ldrImmA1 _ p u w rn _ imm12 => !(!p && u && !w && rn == 13 && imm12 == 4) && !(p && !w && rn == 15)
  -- LDRB (literal) A1 comes first
  | .ldrbImmA1 _ p _ w rn _ _ => !(p && !w && rn == 15)
  -- PUSH A1 comes first
  | .stmdbA1 _ w rn _ => !(w && rn == 13)
  -- PUSH A2 comes first
  | .strImmA1 _ p u w rn _ imm12 => !(p && !u && w && rn == 13 && imm12 == 4)
  -- SVC T1 comes first
  | .bT1 cond _ => cond != 15
  -- CMN (immediate) T1 comes first
  | .addImmT3 _ setS _ _ rd _ => !(rd == 15 && setS)
  -- CMN (register) T2 comes first
  | .addRegT3 setS _ _ rd _ _ _ => !(rd == 15 && setS)
  -- TST (immediate) T1 comes first
  | .andImmT1 _ setS _ _ rd _ => !(rd == 15 && setS)
  -- TST (register) T2 comes first
  | .andRegT2 setS _ _ rd _ _ _ => !(rd == 15 && setS)
  -- TEQ (immediate) T1 comes first
  | .eorImmT1 _ setS _ _ rd _ => !(rd == 15 && setS)
  -- TEQ (register) T1 comes first
  | .eorRegT2 setS _ _ rd _ _ _ => !(rd == 15 && setS)
  -- RRX T1 comes first
  | .rorImmT1 _ imm3 _ imm2 _ => !(imm3 == 0 && imm2 == 0)
  -- LSL T2, LSR T2, ASR T2, RRX T1, ROR T1 comes first
  | .orrRegT2 _ rn _ _ _ _ _ => rn != 15
  -- CMP (immediate) T2 comes first
  | .subImmT3 _ setS _ _ rd _ => !(rd == 15 && setS)
  -- CMP (register) T3 comes first
  | .subRegT2 setS _ _ rd _ _ _ => !(rd == 15 && setS)
  -- POP T2 comes first
  | .ldmT2 w rn _ _ _ => !(w && rn == 13)
  -- PUSH T2 comes first
  | .stmdbT1 w rn _ _ => !(w && rn == 13)
  -- LDR (literal) T2 comes first
  | .ldrImmT3 rn _ _ => rn != 15
  -- POP T3, LDR (literal) T2 comes first
  | .ldrImmT4 rn _ p u w imm8 => !(rn == 13 && !p && u && w && imm8 == 4) && rn != 15
  -- LDR (literal) T2 comes first
  | .ldrRegT2 rn _ _ _ => rn != 15
  -- LDRB (literal) T1 comes first
  | .ldrbImmT2 rn _ _ => rn != 15
  -- LDRB (literal) T1 comes first
  | .ldrbImmT3 rn _ _ _ _ _ => rn != 15
  -- LDRB (literal) T1 comes first
  | .ldrbRegT2 rn _ _ _ => rn != 15
  -- PUSH T3 comes first
  | .strImmT4 rn _ p u w imm8 => !(rn == 13 && p && !u && w && imm8 == 4)
  -- every other row: no earlier row overlaps it
  | .pushA1 .. | .pushA2 .. | .vpushA1 .. | .vpushA2 .. | .popA1 .. | .popA2 ..
  | .vpopA1 .. | .vpopA2 .. | .svcA1 .. | .blxImmA2 .. | .blxRegA1 .. | .bxA1 ..
  | .adcImmA1 .. | .adcRegA1 .. | .addImmA1 .. | .addRegA1 .. | .andImmA1 .. | .andRegA1 ..
  | .eorImmA1 .. | .eorRegA1 .. | .orrImmA1 .. | .orrRegA1 .. | .rsbImmA1 .. | .rsbRegA1 ..
  | .rscImmA1 .. | .rscRegA1 .. | .subImmA1 .. | .subRegA1 .. | .teqImmA1 .. | .teqRegA1 ..
  | .tstImmA1 .. | .tstRegA1 .. | .mvnImmA1 .. | .mvnRegA1 .. | .cmnImmA1 .. | .cmnRegA1 ..
  | .cmpImmA1 .. | .cmpRegA1 .. | .asrImmA1 .. | .asrRegA1 .. | .lslImmA1 .. | .lslRegA1 ..
  | .lsrImmA1 .. | .lsrRegA1 .. | .rrxA1 .. | .rorRegA1 .. | .ldmdaA1 .. | .ldmdbA1 ..
  | .ldmibA1 .. | .ldrLitA1 .. | .ldrRegA1 .. | .ldrbLitA1 .. | .ldrbRegA1 .. | .stmA1 ..
  | .stmdaA1 .. | .stmibA1 .. | .strRegA1 .. | .strbImmA1 .. | .strbRegA1 .. | .pushT1 ..
  | .popT1 .. | .addSpImmT1 .. | .addSpImmT2 .. | .subSpImmT1 .. | .svcT1 .. | .bT2 ..
  | .blxRegT1 .. | .bxT1 .. | .cbzT1 .. | .cbnzT1 .. | .itT1 .. | .adcRegT1 ..
  | .addImmT1 .. | .addImmT2 .. | .addRegT1 .. | .addRegT2 .. | .andRegT1 .. | .eorRegT1 ..
  | .orrRegT1 .. | .mvnRegT1 .. | .rsbImmT1 .. | .subImmT1 .. | .subImmT2 .. | .subRegT1 ..
  | .cmpImmT1 .. | .cmpRegT1 .. | .cmpRegT2 .. | .cmnRegT1 .. | .tstRegT1 .. | .asrImmT1 ..
  | .asrRegT1 .. | .lslImmT1 .. | .lslRegT1 .. | .lsrImmT1 .. | .lsrRegT1 .. | .rorRegT1 ..
  | .ldmT1 .. | .stmT1 .. | .ldrImmT1 .. | .ldrImmT2 .. | .ldrLitT1 .. | .ldrRegT1 ..
  | .strImmT1 .. | .strImmT2 .. | .strRegT1 .. | .ldrbImmT1 .. | .ldrbRegT1 .. | .strbImmT1 ..
  | .strbRegT1 .. | .pushT2 .. | .pushT3 .. | .popT2 .. | .popT3 .. | .vpushT1 ..
  | .vpushT2 .. | .vpopT1 .. | .vpopT2 .. | .bT3 .. | .bT4 .. | .blxImmT2 ..
  | .blImmT1 .. | .tbbT1 .. | .tbhT1 .. | .cmnImmT1 .. | .cmpImmT2 .. | .tstImmT1 ..
  | .teqImmT1 .. | .cmnRegT2 .. | .cmpRegT3 .. | .tstRegT2 .. | .teqRegT1 .. | .adcImmT1 ..
  | .adcRegT2 .. | .addImmT4 .. | .mvnImmT1 .. | .mvnRegT2 .. | .lslImmT2 .. | .lsrImmT2 ..
  | .asrImmT2 .. | .rrxT1 .. | .orrImmT1 .. | .rsbImmT2 .. | .rsbRegT1 .. | .subImmT4 ..
  | .asrRegT2 .. | .lslRegT2 .. | .lsrRegT2 .. | .rorRegT2 .. | .ldmdbT1 .. | .stmT2 ..
  | .ldrLitT2 .. | .ldrbLitT1 .. | .strImmT3 .. | .strRegT2 .. | .strbImmT2 .. | .strbImmT3 ..
  | .strbRegT2 .. => true

end Sys2Proof
end

