-- ==== Sys2Proof/Decode.lean ====
section
/-! DEFINITION. The decoder (30_encoding.md rules R90 to R104) and, after it, the encoder written from the same tables.

The decoder is total: on any word it answers an instruction or says that no row matches (rule R115, `UnsupportedEncoding`).
Fields are cut out here, once, by one function per format; the two tables are lists in the scan order of rules R100 and
R101. A 32-bit Thumb word has its first halfword in bits 31:16 (rule R96). -/

namespace Sys2Proof

/-! ## Architecture variants (10_state.md rules R24, R25) -/

/-- The ordinal of a variant, 0 to 10 (R24). -/
def ArchVariant.ordinal : ArchVariant → Nat
  | .unknown => 0 | .armv4 => 1 | .armv4t => 2 | .armv5t => 3 | .armv5te => 4 | .armv5tej => 5
  | .armv6 => 6 | .armv6k => 7 | .armv6t2 => 8 | .armv7 => 9 | .armv8 => 10

/-- `ArchVersion()` (R25): the third column of the table of rule R24. -/
def ArchVariant.version : ArchVariant → Nat
  | .unknown => 0 | .armv4 => 4 | .armv4t => 4 | .armv5t => 5 | .armv5te => 5 | .armv5tej => 5
  | .armv6 => 6 | .armv6k => 6 | .armv6t2 => 6 | .armv7 => 7 | .armv8 => 8

/-- Membership of a variant in a variant set (R24, last column). -/
def VariantSet.admits (v : VariantSet) (a : ArchVariant) : Bool :=
  match v with
  | .all => true
  | .v4tAbove => 2 ≤ a.ordinal
  | .v5tAbove => 3 ≤ a.ordinal
  | .v6t2Above => 8 ≤ a.ordinal

/-! ## Fields -/

/-- The field of `n` bits whose lowest bit is `lo` (R130). -/
def fld (w : Word) (lo n : Nat) : BitVec n := w.extractLsb' lo n

/-- A field put at bit `lo` of a word. -/
def place {n : Nat} (x : BitVec n) (lo : Nat) : Word := x.setWidth 32 <<< lo

/-- A single bit put at bit `lo` of a word. -/
def flag (b : Bool) (lo : Nat) : Word := place (BitVec.ofBool b) lo

/-! ## Formats (rules R102, R103, R104): the fields of a word -/

/-- A_reglist (R102): cond[31:28], register_list[15:0]. -/
def decAReglist (k : BitVec 4 → BitVec 16 → Instr) (w : Word) : Instr :=
  k (fld w 28 4) (fld w 0 16)

/-- A_rt (R102): cond[31:28], Rt[15:12]. -/
def decARt (k : BitVec 4 → BitVec 4 → Instr) (w : Word) : Instr :=
  k (fld w 28 4) (fld w 12 4)

/-- A_vlist (R102): cond[31:28], D[22], Vd[15:12], imm8[7:0]. -/
def decAVlist (k : BitVec 4 → BitVec 1 → BitVec 4 → BitVec 8 → Instr) (w : Word) : Instr :=
  k (fld w 28 4) (fld w 22 1) (fld w 12 4) (fld w 0 8)

/-- A_imm24 (R102): cond[31:28], imm24[23:0]. -/
def decAImm24 (k : BitVec 4 → BitVec 24 → Instr) (w : Word) : Instr :=
  k (fld w 28 4) (fld w 0 24)

/-- A_blx (R102): H[24], imm24[23:0]. -/
def decABlx (k : BitVec 1 → BitVec 24 → Instr) (w : Word) : Instr :=
  k (fld w 24 1) (fld w 0 24)

/-- A_rm (R102): cond[31:28], Rm[3:0]. -/
def decARm (k : BitVec 4 → BitVec 4 → Instr) (w : Word) : Instr :=
  k (fld w 28 4) (fld w 0 4)

/-- A_dp_imm (R102): cond[31:28], S[20], Rn[19:16], Rd[15:12], imm12[11:0]. -/
def decADpImm (k : BitVec 4 → Bool → BitVec 4 → BitVec 4 → BitVec 12 → Instr) (w : Word) : Instr :=
  k (fld w 28 4) (w.getLsbD 20) (fld w 16 4) (fld w 12 4) (fld w 0 12)

/-- A_dp_reg (R102): cond[31:28], S[20], Rn[19:16], Rd[15:12], imm5[11:7], type[6:5], Rm[3:0]. -/
def decADpReg (k : BitVec 4 → Bool → BitVec 4 → BitVec 4 → BitVec 5 → BitVec 2 → BitVec 4 → Instr) (w : Word) : Instr :=
  k (fld w 28 4) (w.getLsbD 20) (fld w 16 4) (fld w 12 4) (fld w 7 5) (fld w 5 2) (fld w 0 4)

/-- A_cmp_imm (R102): cond[31:28], Rn[19:16], imm12[11:0]. -/
def decACmpImm (k : BitVec 4 → BitVec 4 → BitVec 12 → Instr) (w : Word) : Instr :=
  k (fld w 28 4) (fld w 16 4) (fld w 0 12)

/-- A_cmp_reg (R102): cond[31:28], Rn[19:16], imm5[11:7], type[6:5], Rm[3:0]. -/
def decACmpReg (k : BitVec 4 → BitVec 4 → BitVec 5 → BitVec 2 → BitVec 4 → Instr) (w : Word) : Instr :=
  k (fld w 28 4) (fld w 16 4) (fld w 7 5) (fld w 5 2) (fld w 0 4)

/-- A_mvn_imm (R102): cond[31:28], S[20], Rd[15:12], imm12[11:0]. -/
def decAMvnImm (k : BitVec 4 → Bool → BitVec 4 → BitVec 12 → Instr) (w : Word) : Instr :=
  k (fld w 28 4) (w.getLsbD 20) (fld w 12 4) (fld w 0 12)

/-- A_mvn_reg (R102): cond[31:28], S[20], Rd[15:12], imm5[11:7], type[6:5], Rm[3:0]. -/
def decAMvnReg (k : BitVec 4 → Bool → BitVec 4 → BitVec 5 → BitVec 2 → BitVec 4 → Instr) (w : Word) : Instr :=
  k (fld w 28 4) (w.getLsbD 20) (fld w 12 4) (fld w 7 5) (fld w 5 2) (fld w 0 4)

/-- A_shift_imm (R102): cond[31:28], S[20], Rd[15:12], imm5[11:7], Rm[3:0]. -/
def decAShiftImm (k : BitVec 4 → Bool → BitVec 4 → BitVec 5 → BitVec 4 → Instr) (w : Word) : Instr :=
  k (fld w 28 4) (w.getLsbD 20) (fld w 12 4) (fld w 7 5) (fld w 0 4)

/-- A_shift_reg (R102): cond[31:28], S[20], Rd[15:12], Rm[11:8], Rn[3:0]. -/
def decAShiftReg (k : BitVec 4 → Bool → BitVec 4 → BitVec 4 → BitVec 4 → Instr) (w : Word) : Instr :=
  k (fld w 28 4) (w.getLsbD 20) (fld w 12 4) (fld w 8 4) (fld w 0 4)

/-- A_rrx (R102): cond[31:28], S[20], Rd[15:12], Rm[3:0]. -/
def decARrx (k : BitVec 4 → Bool → BitVec 4 → BitVec 4 → Instr) (w : Word) : Instr :=
  k (fld w 28 4) (w.getLsbD 20) (fld w 12 4) (fld w 0 4)

/-- A_ldm (R102): cond[31:28], W[21], Rn[19:16], register_list[15:0]. -/
def decALdm (k : BitVec 4 → Bool → BitVec 4 → BitVec 16 → Instr) (w : Word) : Instr :=
  k (fld w 28 4) (w.getLsbD 21) (fld w 16 4) (fld w 0 16)

/-- A_ls_lit (R102): cond[31:28], U[23], Rt[15:12], imm12[11:0]. -/
def decALsLit (k : BitVec 4 → Bool → BitVec 4 → BitVec 12 → Instr) (w : Word) : Instr :=
  k (fld w 28 4) (w.getLsbD 23) (fld w 12 4) (fld w 0 12)

/-- A_ls_imm (R102): cond[31:28], P[24], U[23], W[21], Rn[19:16], Rt[15:12], imm12[11:0]. -/
def decALsImm (k : BitVec 4 → Bool → Bool → Bool → BitVec 4 → BitVec 4 → BitVec 12 → Instr) (w : Word) : Instr :=
  k (fld w 28 4) (w.getLsbD 24) (w.getLsbD 23) (w.getLsbD 21) (fld w 16 4) (fld w 12 4) (fld w 0 12)

/-- A_ls_reg (R102): cond[31:28], P[24], U[23], W[21], Rn[19:16], Rt[15:12], imm5[11:7], type[6:5], Rm[3:0]. -/
def decALsReg (k : BitVec 4 → Bool → Bool → Bool → BitVec 4 → BitVec 4 → BitVec 5 → BitVec 2 → BitVec 4 → Instr) (w : Word) : Instr :=
  k (fld w 28 4) (w.getLsbD 24) (w.getLsbD 23) (w.getLsbD 21) (fld w 16 4) (fld w 12 4) (fld w 7 5) (fld w 5 2) (fld w 0 4)

/-- T16_push (R103): M[8], register_list[7:0]. -/
def decT16Push (k : Bool → BitVec 8 → Instr) (w : Word) : Instr :=
  k (w.getLsbD 8) (fld w 0 8)

/-- T16_pop (R103): P[8], register_list[7:0]. -/
def decT16Pop (k : Bool → BitVec 8 → Instr) (w : Word) : Instr :=
  k (w.getLsbD 8) (fld w 0 8)

/-- T16_sprd (R103): Rd[10:8], imm8[7:0]. -/
def decT16Sprd (k : BitVec 3 → BitVec 8 → Instr) (w : Word) : Instr :=
  k (fld w 8 3) (fld w 0 8)

/-- T16_sp7 (R103): imm7[6:0]. -/
def decT16Sp7 (k : BitVec 7 → Instr) (w : Word) : Instr :=
  k (fld w 0 7)

/-- T16_imm8 (R103): imm8[7:0]. -/
def decT16Imm8 (k : BitVec 8 → Instr) (w : Word) : Instr :=
  k (fld w 0 8)

/-- T16_bcond (R103): cond[11:8], imm8[7:0]. -/
def decT16Bcond (k : BitVec 4 → BitVec 8 → Instr) (w : Word) : Instr :=
  k (fld w 8 4) (fld w 0 8)

/-- T16_b (R103): imm11[10:0]. -/
def decT16B (k : BitVec 11 → Instr) (w : Word) : Instr :=
  k (fld w 0 11)

/-- T16_rm (R103): Rm[6:3]. -/
def decT16Rm (k : BitVec 4 → Instr) (w : Word) : Instr :=
  k (fld w 3 4)

/-- T16_cb (R103): i[9], imm5[7:3], Rn[2:0]. -/
def decT16Cb (k : BitVec 1 → BitVec 5 → BitVec 3 → Instr) (w : Word) : Instr :=
  k (fld w 9 1) (fld w 3 5) (fld w 0 3)

/-- T16_it (R103): firstcond[7:4], mask[3:0]. -/
def decT16It (k : BitVec 4 → BitVec 4 → Instr) (w : Word) : Instr :=
  k (fld w 4 4) (fld w 0 4)

/-- T16_dp (R103): Rm[5:3], Rdn[2:0]. -/
def decT16Dp (k : BitVec 3 → BitVec 3 → Instr) (w : Word) : Instr :=
  k (fld w 3 3) (fld w 0 3)

/-- T16_imm3 (R103): imm3[8:6], Rn[5:3], Rd[2:0]. -/
def decT16Imm3 (k : BitVec 3 → BitVec 3 → BitVec 3 → Instr) (w : Word) : Instr :=
  k (fld w 6 3) (fld w 3 3) (fld w 0 3)

/-- T16_rdn_imm8 (R103): Rdn[10:8], imm8[7:0]. -/
def decT16RdnImm8 (k : BitVec 3 → BitVec 8 → Instr) (w : Word) : Instr :=
  k (fld w 8 3) (fld w 0 8)

/-- T16_reg3 (R103): Rm[8:6], Rn[5:3], Rd[2:0]. -/
def decT16Reg3 (k : BitVec 3 → BitVec 3 → BitVec 3 → Instr) (w : Word) : Instr :=
  k (fld w 6 3) (fld w 3 3) (fld w 0 3)

/-- T16_hi (R103): DN[7], Rm[6:3], Rdn[2:0]. -/
def decT16Hi (k : BitVec 1 → BitVec 4 → BitVec 3 → Instr) (w : Word) : Instr :=
  k (fld w 7 1) (fld w 3 4) (fld w 0 3)

/-- T16_shift_imm (R103): imm5[10:6], Rm[5:3], Rd[2:0]. -/
def decT16ShiftImm (k : BitVec 5 → BitVec 3 → BitVec 3 → Instr) (w : Word) : Instr :=
  k (fld w 6 5) (fld w 3 3) (fld w 0 3)

/-- T16_ldm (R103): Rn[10:8], register_list[7:0]. -/
def decT16Ldm (k : BitVec 3 → BitVec 8 → Instr) (w : Word) : Instr :=
  k (fld w 8 3) (fld w 0 8)

/-- T16_ls_imm5 (R103): imm5[10:6], Rn[5:3], Rt[2:0]. -/
def decT16LsImm5 (k : BitVec 5 → BitVec 3 → BitVec 3 → Instr) (w : Word) : Instr :=
  k (fld w 6 5) (fld w 3 3) (fld w 0 3)

/-- T16_rt_imm8 (R103): Rt[10:8], imm8[7:0]. -/
def decT16RtImm8 (k : BitVec 3 → BitVec 8 → Instr) (w : Word) : Instr :=
  k (fld w 8 3) (fld w 0 8)

/-- T16_ls_reg (R103): Rm[8:6], Rn[5:3], Rt[2:0]. -/
def decT16LsReg (k : BitVec 3 → BitVec 3 → BitVec 3 → Instr) (w : Word) : Instr :=
  k (fld w 6 3) (fld w 3 3) (fld w 0 3)

/-- T32_reglist (R104): M[14], register_list[12:0]. -/
def decT32ReglistPush (k : Bool → BitVec 13 → Instr) (w : Word) : Instr :=
  k (w.getLsbD 14) (fld w 0 13)

/-- T32_rt (R104): Rt[15:12]. -/
def decT32Rt (k : BitVec 4 → Instr) (w : Word) : Instr :=
  k (fld w 12 4)

/-- T32_reglist (R104): P[15], M[14], register_list[12:0]. -/
def decT32Reglist (k : Bool → Bool → BitVec 13 → Instr) (w : Word) : Instr :=
  k (w.getLsbD 15) (w.getLsbD 14) (fld w 0 13)

/-- T32_vlist (R104): D[22], Vd[15:12], imm8[7:0]. -/
def decT32Vlist (k : BitVec 1 → BitVec 4 → BitVec 8 → Instr) (w : Word) : Instr :=
  k (fld w 22 1) (fld w 12 4) (fld w 0 8)

/-- T32_bcond (R104): S[26], cond[25:22], imm6[21:16], J1[13], J2[11], imm11[10:0]. -/
def decT32Bcond (k : BitVec 1 → BitVec 4 → BitVec 6 → BitVec 1 → BitVec 1 → BitVec 11 → Instr) (w : Word) : Instr :=
  k (fld w 26 1) (fld w 22 4) (fld w 16 6) (fld w 13 1) (fld w 11 1) (fld w 0 11)

/-- T32_b (R104): S[26], imm10[25:16], J1[13], J2[11], imm11[10:0]. -/
def decT32B (k : BitVec 1 → BitVec 10 → BitVec 1 → BitVec 1 → BitVec 11 → Instr) (w : Word) : Instr :=
  k (fld w 26 1) (fld w 16 10) (fld w 13 1) (fld w 11 1) (fld w 0 11)

/-- T32_blx (R104): S[26], imm10H[25:16], J1[13], J2[11], imm10L[10:1], H[0]. -/
def decT32Blx (k : BitVec 1 → BitVec 10 → BitVec 1 → BitVec 1 → BitVec 10 → BitVec 1 → Instr) (w : Word) : Instr :=
  k (fld w 26 1) (fld w 16 10) (fld w 13 1) (fld w 11 1) (fld w 1 10) (fld w 0 1)

/-- T32_tb (R104): Rn[19:16], Rm[3:0]. -/
def decT32Tb (k : BitVec 4 → BitVec 4 → Instr) (w : Word) : Instr :=
  k (fld w 16 4) (fld w 0 4)

/-- T32_modimm (R104): i[26], Rn[19:16], imm3[14:12], imm8[7:0]. -/
def decT32ModimmCmp (k : BitVec 1 → BitVec 4 → BitVec 3 → BitVec 8 → Instr) (w : Word) : Instr :=
  k (fld w 26 1) (fld w 16 4) (fld w 12 3) (fld w 0 8)

/-- T32_dp_reg (R104): Rn[19:16], imm3[14:12], imm2[7:6], type[5:4], Rm[3:0]. -/
def decT32DpRegCmp (k : BitVec 4 → BitVec 3 → BitVec 2 → BitVec 2 → BitVec 4 → Instr) (w : Word) : Instr :=
  k (fld w 16 4) (fld w 12 3) (fld w 6 2) (fld w 4 2) (fld w 0 4)

/-- T32_modimm (R104): i[26], S[20], Rn[19:16], imm3[14:12], Rd[11:8], imm8[7:0]. -/
def decT32Modimm (k : BitVec 1 → Bool → BitVec 4 → BitVec 3 → BitVec 4 → BitVec 8 → Instr) (w : Word) : Instr :=
  k (fld w 26 1) (w.getLsbD 20) (fld w 16 4) (fld w 12 3) (fld w 8 4) (fld w 0 8)

/-- T32_dp_reg (R104): S[20], Rn[19:16], imm3[14:12], Rd[11:8], imm2[7:6], type[5:4], Rm[3:0]. -/
def decT32DpReg (k : Bool → BitVec 4 → BitVec 3 → BitVec 4 → BitVec 2 → BitVec 2 → BitVec 4 → Instr) (w : Word) : Instr :=
  k (w.getLsbD 20) (fld w 16 4) (fld w 12 3) (fld w 8 4) (fld w 6 2) (fld w 4 2) (fld w 0 4)

/-- T32_plain12 (R104): i[26], Rn[19:16], imm3[14:12], Rd[11:8], imm8[7:0]. -/
def decT32Plain12 (k : BitVec 1 → BitVec 4 → BitVec 3 → BitVec 4 → BitVec 8 → Instr) (w : Word) : Instr :=
  k (fld w 26 1) (fld w 16 4) (fld w 12 3) (fld w 8 4) (fld w 0 8)

/-- T32_modimm (R104): i[26], S[20], imm3[14:12], Rd[11:8], imm8[7:0]. -/
def decT32ModimmMvn (k : BitVec 1 → Bool → BitVec 3 → BitVec 4 → BitVec 8 → Instr) (w : Word) : Instr :=
  k (fld w 26 1) (w.getLsbD 20) (fld w 12 3) (fld w 8 4) (fld w 0 8)

/-- T32_dp_reg (R104): S[20], imm3[14:12], Rd[11:8], imm2[7:6], type[5:4], Rm[3:0]. -/
def decT32DpRegMvn (k : Bool → BitVec 3 → BitVec 4 → BitVec 2 → BitVec 2 → BitVec 4 → Instr) (w : Word) : Instr :=
  k (w.getLsbD 20) (fld w 12 3) (fld w 8 4) (fld w 6 2) (fld w 4 2) (fld w 0 4)

/-- T32_shift_imm (R104): S[20], imm3[14:12], Rd[11:8], imm2[7:6], Rm[3:0]. -/
def decT32ShiftImm (k : Bool → BitVec 3 → BitVec 4 → BitVec 2 → BitVec 4 → Instr) (w : Word) : Instr :=
  k (w.getLsbD 20) (fld w 12 3) (fld w 8 4) (fld w 6 2) (fld w 0 4)

/-- T32_rrx (R104): S[20], Rd[11:8], Rm[3:0]. -/
def decT32Rrx (k : Bool → BitVec 4 → BitVec 4 → Instr) (w : Word) : Instr :=
  k (w.getLsbD 20) (fld w 8 4) (fld w 0 4)

/-- T32_shift_reg (R104): S[20], Rn[19:16], Rd[11:8], Rm[3:0]. -/
def decT32ShiftReg (k : Bool → BitVec 4 → BitVec 4 → BitVec 4 → Instr) (w : Word) : Instr :=
  k (w.getLsbD 20) (fld w 16 4) (fld w 8 4) (fld w 0 4)

/-- T32_ldm (R104): W[21], Rn[19:16], P[15], M[14], register_list[12:0]. -/
def decT32Ldm (k : Bool → BitVec 4 → Bool → Bool → BitVec 13 → Instr) (w : Word) : Instr :=
  k (w.getLsbD 21) (fld w 16 4) (w.getLsbD 15) (w.getLsbD 14) (fld w 0 13)

/-- T32_ldm (R104): W[21], Rn[19:16], M[14], register_list[12:0]. -/
def decT32LdmStore (k : Bool → BitVec 4 → Bool → BitVec 13 → Instr) (w : Word) : Instr :=
  k (w.getLsbD 21) (fld w 16 4) (w.getLsbD 14) (fld w 0 13)

/-- T32_ls_lit (R104): U[23], Rt[15:12], imm12[11:0]. -/
def decT32LsLit (k : Bool → BitVec 4 → BitVec 12 → Instr) (w : Word) : Instr :=
  k (w.getLsbD 23) (fld w 12 4) (fld w 0 12)

/-- T32_ls_imm12 (R104): Rn[19:16], Rt[15:12], imm12[11:0]. -/
def decT32LsImm12 (k : BitVec 4 → BitVec 4 → BitVec 12 → Instr) (w : Word) : Instr :=
  k (fld w 16 4) (fld w 12 4) (fld w 0 12)

/-- T32_ls_imm8 (R104): Rn[19:16], Rt[15:12], P[10], U[9], W[8], imm8[7:0]. -/
def decT32LsImm8 (k : BitVec 4 → BitVec 4 → Bool → Bool → Bool → BitVec 8 → Instr) (w : Word) : Instr :=
  k (fld w 16 4) (fld w 12 4) (w.getLsbD 10) (w.getLsbD 9) (w.getLsbD 8) (fld w 0 8)

/-- T32_ls_reg (R104): Rn[19:16], Rt[15:12], imm2[5:4], Rm[3:0]. -/
def decT32LsReg (k : BitVec 4 → BitVec 4 → BitVec 2 → BitVec 4 → Instr) (w : Word) : Instr :=
  k (fld w 16 4) (fld w 12 4) (fld w 4 2) (fld w 0 4)

/-! ## The tables (rules R100, R101) -/

/-- A row of a decode table (R91): mask, value, variant set, and the instruction its format reads from a word. The width is
the table's (R92, decision D37). -/
structure Row where
  mask : Word
  value : Word
  variants : VariantSet
  build : Word → Instr

/-- The row's pattern matches the word (R92). -/
def Row.hits (r : Row) (w : Word) : Bool := w &&& r.mask == r.value

/-- The ARM table (R100), rows 1 to 12 of this width. -/
def armTable1 : List Row :=
  [ ⟨0x0fff0000, 0x092d0000, .all, decAReglist .pushA1⟩,
    ⟨0x0fff0fff, 0x052d0004, .all, decARt .pushA2⟩,
    ⟨0x0fbf0f00, 0x0d2d0b00, .v6t2Above, decAVlist .vpushA1⟩,
    ⟨0x0fbf0f00, 0x0d2d0a00, .v6t2Above, decAVlist .vpushA2⟩,
    ⟨0x0fff0000, 0x08bd0000, .all, decAReglist .popA1⟩,
    ⟨0x0fff0fff, 0x049d0004, .all, decARt .popA2⟩,
    ⟨0x0fbf0f00, 0x0cbd0b00, .v6t2Above, decAVlist .vpopA1⟩,
    ⟨0x0fbf0f00, 0x0cbd0a00, .v6t2Above, decAVlist .vpopA2⟩,
    ⟨0x0f000000, 0x0f000000, .all, decAImm24 .svcA1⟩,
    ⟨0xfe000000, 0xfa000000, .v5tAbove, decABlx .blxImmA2⟩,
    ⟨0x0f000000, 0x0a000000, .all, decAImm24 .bA1⟩,
    ⟨0x0f000000, 0x0b000000, .all, decAImm24 .blImmA1⟩ ]

/-- The ARM table (R100), rows 13 to 24 of this width. -/
def armTable2 : List Row :=
  [ ⟨0x0ffffff0, 0x012fff30, .v5tAbove, decARm .blxRegA1⟩,
    ⟨0x0ffffff0, 0x012fff10, .all, decARm .bxA1⟩,
    ⟨0x0fe00000, 0x02a00000, .all, decADpImm .adcImmA1⟩,
    ⟨0x0fe00010, 0x00a00000, .all, decADpReg .adcRegA1⟩,
    ⟨0x0fe00000, 0x02800000, .all, decADpImm .addImmA1⟩,
    ⟨0x0fe00010, 0x00800000, .all, decADpReg .addRegA1⟩,
    ⟨0x0fe00000, 0x02000000, .all, decADpImm .andImmA1⟩,
    ⟨0x0fe00010, 0x00000000, .all, decADpReg .andRegA1⟩,
    ⟨0x0fe00000, 0x02200000, .all, decADpImm .eorImmA1⟩,
    ⟨0x0fe00010, 0x00200000, .all, decADpReg .eorRegA1⟩,
    ⟨0x0fe00000, 0x03800000, .all, decADpImm .orrImmA1⟩,
    ⟨0x0fe00010, 0x01800000, .all, decADpReg .orrRegA1⟩ ]

/-- The ARM table (R100), rows 25 to 36 of this width. -/
def armTable3 : List Row :=
  [ ⟨0x0fe00000, 0x02600000, .all, decADpImm .rsbImmA1⟩,
    ⟨0x0fe00010, 0x00600000, .all, decADpReg .rsbRegA1⟩,
    ⟨0x0fe00000, 0x02e00000, .all, decADpImm .rscImmA1⟩,
    ⟨0x0fe00010, 0x00e00000, .all, decADpReg .rscRegA1⟩,
    ⟨0x0fe00000, 0x02400000, .all, decADpImm .subImmA1⟩,
    ⟨0x0fe00010, 0x00400000, .all, decADpReg .subRegA1⟩,
    ⟨0x0ff0f000, 0x03300000, .all, decACmpImm .teqImmA1⟩,
    ⟨0x0ff0f010, 0x01300000, .all, decACmpReg .teqRegA1⟩,
    ⟨0x0ff0f000, 0x03100000, .all, decACmpImm .tstImmA1⟩,
    ⟨0x0ff0f010, 0x01100000, .all, decACmpReg .tstRegA1⟩,
    ⟨0x0fef0000, 0x03e00000, .all, decAMvnImm .mvnImmA1⟩,
    ⟨0x0fef0010, 0x01e00000, .all, decAMvnReg .mvnRegA1⟩ ]

/-- The ARM table (R100), rows 37 to 48 of this width. -/
def armTable4 : List Row :=
  [ ⟨0x0ff0f000, 0x03700000, .all, decACmpImm .cmnImmA1⟩,
    ⟨0x0ff0f010, 0x01700000, .all, decACmpReg .cmnRegA1⟩,
    ⟨0x0ff0f000, 0x03500000, .all, decACmpImm .cmpImmA1⟩,
    ⟨0x0ff0f010, 0x01500000, .all, decACmpReg .cmpRegA1⟩,
    ⟨0x0fef0070, 0x01a00040, .all, decAShiftImm .asrImmA1⟩,
    ⟨0x0fef00f0, 0x01a00050, .all, decAShiftReg .asrRegA1⟩,
    ⟨0x0fef0070, 0x01a00000, .all, decAShiftImm .lslImmA1⟩,
    ⟨0x0fef00f0, 0x01a00010, .all, decAShiftReg .lslRegA1⟩,
    ⟨0x0fef0070, 0x01a00020, .all, decAShiftImm .lsrImmA1⟩,
    ⟨0x0fef00f0, 0x01a00030, .all, decAShiftReg .lsrRegA1⟩,
    ⟨0x0fef0ff0, 0x01a00060, .all, decARrx .rrxA1⟩,
    ⟨0x0fef0070, 0x01a00060, .all, decAShiftImm .rorImmA1⟩ ]

/-- The ARM table (R100), rows 49 to 60 of this width. -/
def armTable5 : List Row :=
  [ ⟨0x0fef00f0, 0x01a00070, .all, decAShiftReg .rorRegA1⟩,
    ⟨0x0fd00000, 0x08900000, .all, decALdm .ldmA1⟩,
    ⟨0x0fd00000, 0x08100000, .all, decALdm .ldmdaA1⟩,
    ⟨0x0fd00000, 0x09100000, .all, decALdm .ldmdbA1⟩,
    ⟨0x0fd00000, 0x09900000, .all, decALdm .ldmibA1⟩,
    ⟨0x0f7f0000, 0x051f0000, .all, decALsLit .ldrLitA1⟩,
    ⟨0x0e500000, 0x04100000, .all, decALsImm .ldrImmA1⟩,
    ⟨0x0e500010, 0x06100000, .all, decALsReg .ldrRegA1⟩,
    ⟨0x0f7f0000, 0x055f0000, .all, decALsLit .ldrbLitA1⟩,
    ⟨0x0e500000, 0x04500000, .all, decALsImm .ldrbImmA1⟩,
    ⟨0x0e500010, 0x06500000, .all, decALsReg .ldrbRegA1⟩,
    ⟨0x0fd00000, 0x08800000, .all, decALdm .stmA1⟩ ]

/-- The ARM table (R100), rows 61 to 67 of this width. -/
def armTable6 : List Row :=
  [ ⟨0x0fd00000, 0x08000000, .all, decALdm .stmdaA1⟩,
    ⟨0x0fd00000, 0x09000000, .all, decALdm .stmdbA1⟩,
    ⟨0x0fd00000, 0x09800000, .all, decALdm .stmibA1⟩,
    ⟨0x0e500000, 0x04000000, .all, decALsImm .strImmA1⟩,
    ⟨0x0e500010, 0x06000000, .all, decALsReg .strRegA1⟩,
    ⟨0x0e500000, 0x04400000, .all, decALsImm .strbImmA1⟩,
    ⟨0x0e500010, 0x06400000, .all, decALsReg .strbRegA1⟩ ]

/-- The ARM table (R100), in scan order: the first matching row wins (R92). -/
def armTable : List Row :=
  armTable1 ++ armTable2 ++ armTable3 ++ armTable4 ++ armTable5 ++ armTable6

/-- The Thumb table (R101), 16-bit rows, rows 1 to 12 of this width. -/
def thumb16Table1 : List Row :=
  [ ⟨0x0000fe00, 0x0000b400, .v4tAbove, decT16Push .pushT1⟩,
    ⟨0x0000fe00, 0x0000bc00, .v4tAbove, decT16Pop .popT1⟩,
    ⟨0x0000f800, 0x0000a800, .v4tAbove, decT16Sprd .addSpImmT1⟩,
    ⟨0x0000ff80, 0x0000b000, .v4tAbove, decT16Sp7 .addSpImmT2⟩,
    ⟨0x0000ff80, 0x0000b080, .v4tAbove, decT16Sp7 .subSpImmT1⟩,
    ⟨0x0000ff00, 0x0000df00, .v4tAbove, decT16Imm8 .svcT1⟩,
    ⟨0x0000f000, 0x0000d000, .v4tAbove, decT16Bcond .bT1⟩,
    ⟨0x0000f800, 0x0000e000, .v4tAbove, decT16B .bT2⟩,
    ⟨0x0000ff87, 0x00004780, .v5tAbove, decT16Rm .blxRegT1⟩,
    ⟨0x0000ff87, 0x00004700, .v4tAbove, decT16Rm .bxT1⟩,
    ⟨0x0000fd00, 0x0000b100, .v6t2Above, decT16Cb .cbzT1⟩,
    ⟨0x0000fd00, 0x0000b900, .v6t2Above, decT16Cb .cbnzT1⟩ ]

/-- The Thumb table (R101), 16-bit rows, rows 13 to 24 of this width. -/
def thumb16Table2 : List Row :=
  [ ⟨0x0000ff00, 0x0000bf00, .v6t2Above, decT16It .itT1⟩,
    ⟨0x0000ffc0, 0x00004140, .v4tAbove, decT16Dp .adcRegT1⟩,
    ⟨0x0000fe00, 0x00001c00, .v4tAbove, decT16Imm3 .addImmT1⟩,
    ⟨0x0000f800, 0x00003000, .v4tAbove, decT16RdnImm8 .addImmT2⟩,
    ⟨0x0000fe00, 0x00001800, .v4tAbove, decT16Reg3 .addRegT1⟩,
    ⟨0x0000ff00, 0x00004400, .v4tAbove, decT16Hi .addRegT2⟩,
    ⟨0x0000ffc0, 0x00004000, .v4tAbove, decT16Dp .andRegT1⟩,
    ⟨0x0000ffc0, 0x00004040, .v4tAbove, decT16Dp .eorRegT1⟩,
    ⟨0x0000ffc0, 0x00004300, .v4tAbove, decT16Dp .orrRegT1⟩,
    ⟨0x0000ffc0, 0x000043c0, .v4tAbove, decT16Dp .mvnRegT1⟩,
    ⟨0x0000ffc0, 0x00004240, .v4tAbove, decT16Dp .rsbImmT1⟩,
    ⟨0x0000fe00, 0x00001e00, .v4tAbove, decT16Imm3 .subImmT1⟩ ]

/-- The Thumb table (R101), 16-bit rows, rows 25 to 36 of this width. -/
def thumb16Table3 : List Row :=
  [ ⟨0x0000f800, 0x00003800, .v4tAbove, decT16RdnImm8 .subImmT2⟩,
    ⟨0x0000fe00, 0x00001a00, .v4tAbove, decT16Reg3 .subRegT1⟩,
    ⟨0x0000f800, 0x00002800, .v4tAbove, decT16RdnImm8 .cmpImmT1⟩,
    ⟨0x0000ffc0, 0x00004280, .v4tAbove, decT16Dp .cmpRegT1⟩,
    ⟨0x0000ff00, 0x00004500, .v4tAbove, decT16Hi .cmpRegT2⟩,
    ⟨0x0000ffc0, 0x000042c0, .v4tAbove, decT16Dp .cmnRegT1⟩,
    ⟨0x0000ffc0, 0x00004200, .v4tAbove, decT16Dp .tstRegT1⟩,
    ⟨0x0000f800, 0x00001000, .v4tAbove, decT16ShiftImm .asrImmT1⟩,
    ⟨0x0000ffc0, 0x00004100, .v4tAbove, decT16Dp .asrRegT1⟩,
    ⟨0x0000f800, 0x00000000, .v4tAbove, decT16ShiftImm .lslImmT1⟩,
    ⟨0x0000ffc0, 0x00004080, .v4tAbove, decT16Dp .lslRegT1⟩,
    ⟨0x0000f800, 0x00000800, .v4tAbove, decT16ShiftImm .lsrImmT1⟩ ]

/-- The Thumb table (R101), 16-bit rows, rows 37 to 48 of this width. -/
def thumb16Table4 : List Row :=
  [ ⟨0x0000ffc0, 0x000040c0, .v4tAbove, decT16Dp .lsrRegT1⟩,
    ⟨0x0000ffc0, 0x000041c0, .v4tAbove, decT16Dp .rorRegT1⟩,
    ⟨0x0000f800, 0x0000c800, .v4tAbove, decT16Ldm .ldmT1⟩,
    ⟨0x0000f800, 0x0000c000, .v4tAbove, decT16Ldm .stmT1⟩,
    ⟨0x0000f800, 0x00006800, .v4tAbove, decT16LsImm5 .ldrImmT1⟩,
    ⟨0x0000f800, 0x00009800, .v4tAbove, decT16RtImm8 .ldrImmT2⟩,
    ⟨0x0000f800, 0x00004800, .v4tAbove, decT16RtImm8 .ldrLitT1⟩,
    ⟨0x0000fe00, 0x00005800, .v4tAbove, decT16LsReg .ldrRegT1⟩,
    ⟨0x0000f800, 0x00006000, .v4tAbove, decT16LsImm5 .strImmT1⟩,
    ⟨0x0000f800, 0x00009000, .v4tAbove, decT16RtImm8 .strImmT2⟩,
    ⟨0x0000fe00, 0x00005000, .v4tAbove, decT16LsReg .strRegT1⟩,
    ⟨0x0000f800, 0x00007800, .v4tAbove, decT16LsImm5 .ldrbImmT1⟩ ]

/-- The Thumb table (R101), 16-bit rows, rows 49 to 51 of this width. -/
def thumb16Table5 : List Row :=
  [ ⟨0x0000fe00, 0x00005c00, .v4tAbove, decT16LsReg .ldrbRegT1⟩,
    ⟨0x0000f800, 0x00007000, .v4tAbove, decT16LsImm5 .strbImmT1⟩,
    ⟨0x0000fe00, 0x00005400, .v4tAbove, decT16LsReg .strbRegT1⟩ ]

/-- The Thumb table (R101), 16-bit rows, in scan order: the first matching row wins (R92). -/
def thumb16Table : List Row :=
  thumb16Table1 ++ thumb16Table2 ++ thumb16Table3 ++ thumb16Table4 ++ thumb16Table5

/-- The Thumb table (R101), 32-bit rows, rows 1 to 12 of this width. -/
def thumb32Table1 : List Row :=
  [ ⟨0xffffa000, 0xe92d0000, .v6t2Above, decT32ReglistPush .pushT2⟩,
    ⟨0xffff0fff, 0xf84d0d04, .v6t2Above, decT32Rt .pushT3⟩,
    ⟨0xffff2000, 0xe8bd0000, .v6t2Above, decT32Reglist .popT2⟩,
    ⟨0xffff0fff, 0xf85d0b04, .v6t2Above, decT32Rt .popT3⟩,
    ⟨0xffbf0f00, 0xed2d0b00, .v6t2Above, decT32Vlist .vpushT1⟩,
    ⟨0xffbf0f00, 0xed2d0a00, .v6t2Above, decT32Vlist .vpushT2⟩,
    ⟨0xffbf0f00, 0xecbd0b00, .v6t2Above, decT32Vlist .vpopT1⟩,
    ⟨0xffbf0f00, 0xecbd0a00, .v6t2Above, decT32Vlist .vpopT2⟩,
    ⟨0xf800d000, 0xf0008000, .v6t2Above, decT32Bcond .bT3⟩,
    ⟨0xf800d000, 0xf0009000, .v6t2Above, decT32B .bT4⟩,
    ⟨0xf800d000, 0xf000c000, .v5tAbove, decT32Blx .blxImmT2⟩,
    ⟨0xf800d000, 0xf000d000, .v4tAbove, decT32B .blImmT1⟩ ]

/-- The Thumb table (R101), 32-bit rows, rows 13 to 24 of this width. -/
def thumb32Table2 : List Row :=
  [ ⟨0xfff0fff0, 0xe8d0f000, .v6t2Above, decT32Tb .tbbT1⟩,
    ⟨0xfff0fff0, 0xe8d0f010, .v6t2Above, decT32Tb .tbhT1⟩,
    ⟨0xfbf08f00, 0xf1100f00, .v6t2Above, decT32ModimmCmp .cmnImmT1⟩,
    ⟨0xfbf08f00, 0xf1b00f00, .v6t2Above, decT32ModimmCmp .cmpImmT2⟩,
    ⟨0xfbf08f00, 0xf0100f00, .v6t2Above, decT32ModimmCmp .tstImmT1⟩,
    ⟨0xfbf08f00, 0xf0900f00, .v6t2Above, decT32ModimmCmp .teqImmT1⟩,
    ⟨0xfff08f00, 0xeb100f00, .v6t2Above, decT32DpRegCmp .cmnRegT2⟩,
    ⟨0xfff08f00, 0xebb00f00, .v6t2Above, decT32DpRegCmp .cmpRegT3⟩,
    ⟨0xfff08f00, 0xea100f00, .v6t2Above, decT32DpRegCmp .tstRegT2⟩,
    ⟨0xfff08f00, 0xea900f00, .v6t2Above, decT32DpRegCmp .teqRegT1⟩,
    ⟨0xfbe08000, 0xf1400000, .v6t2Above, decT32Modimm .adcImmT1⟩,
    ⟨0xffe08000, 0xeb400000, .v6t2Above, decT32DpReg .adcRegT2⟩ ]

/-- The Thumb table (R101), 32-bit rows, rows 25 to 36 of this width. -/
def thumb32Table3 : List Row :=
  [ ⟨0xfbe08000, 0xf1000000, .v6t2Above, decT32Modimm .addImmT3⟩,
    ⟨0xfbf08000, 0xf2000000, .v6t2Above, decT32Plain12 .addImmT4⟩,
    ⟨0xffe08000, 0xeb000000, .v6t2Above, decT32DpReg .addRegT3⟩,
    ⟨0xfbe08000, 0xf0000000, .v6t2Above, decT32Modimm .andImmT1⟩,
    ⟨0xffe08000, 0xea000000, .v6t2Above, decT32DpReg .andRegT2⟩,
    ⟨0xfbe08000, 0xf0800000, .v6t2Above, decT32Modimm .eorImmT1⟩,
    ⟨0xffe08000, 0xea800000, .v6t2Above, decT32DpReg .eorRegT2⟩,
    ⟨0xfbef8000, 0xf06f0000, .v6t2Above, decT32ModimmMvn .mvnImmT1⟩,
    ⟨0xffef8000, 0xea6f0000, .v6t2Above, decT32DpRegMvn .mvnRegT2⟩,
    ⟨0xffef8030, 0xea4f0000, .v6t2Above, decT32ShiftImm .lslImmT2⟩,
    ⟨0xffef8030, 0xea4f0010, .v6t2Above, decT32ShiftImm .lsrImmT2⟩,
    ⟨0xffef8030, 0xea4f0020, .v6t2Above, decT32ShiftImm .asrImmT2⟩ ]

/-- The Thumb table (R101), 32-bit rows, rows 37 to 48 of this width. -/
def thumb32Table4 : List Row :=
  [ ⟨0xffeff0f0, 0xea4f0030, .v6t2Above, decT32Rrx .rrxT1⟩,
    ⟨0xffef8030, 0xea4f0030, .v6t2Above, decT32ShiftImm .rorImmT1⟩,
    ⟨0xfbe08000, 0xf0400000, .v6t2Above, decT32Modimm .orrImmT1⟩,
    ⟨0xffe08000, 0xea400000, .v6t2Above, decT32DpReg .orrRegT2⟩,
    ⟨0xfbe08000, 0xf1c00000, .v6t2Above, decT32Modimm .rsbImmT2⟩,
    ⟨0xffe08000, 0xebc00000, .v6t2Above, decT32DpReg .rsbRegT1⟩,
    ⟨0xfbe08000, 0xf1a00000, .v6t2Above, decT32Modimm .subImmT3⟩,
    ⟨0xfbf08000, 0xf2a00000, .v6t2Above, decT32Plain12 .subImmT4⟩,
    ⟨0xffe08000, 0xeba00000, .v6t2Above, decT32DpReg .subRegT2⟩,
    ⟨0xffe0f0f0, 0xfa40f000, .v6t2Above, decT32ShiftReg .asrRegT2⟩,
    ⟨0xffe0f0f0, 0xfa00f000, .v6t2Above, decT32ShiftReg .lslRegT2⟩,
    ⟨0xffe0f0f0, 0xfa20f000, .v6t2Above, decT32ShiftReg .lsrRegT2⟩ ]

/-- The Thumb table (R101), 32-bit rows, rows 49 to 60 of this width. -/
def thumb32Table5 : List Row :=
  [ ⟨0xffe0f0f0, 0xfa60f000, .v6t2Above, decT32ShiftReg .rorRegT2⟩,
    ⟨0xffd02000, 0xe8900000, .v6t2Above, decT32Ldm .ldmT2⟩,
    ⟨0xffd02000, 0xe9100000, .v6t2Above, decT32Ldm .ldmdbT1⟩,
    ⟨0xffd0a000, 0xe8800000, .v6t2Above, decT32LdmStore .stmT2⟩,
    ⟨0xffd0a000, 0xe9000000, .v6t2Above, decT32LdmStore .stmdbT1⟩,
    ⟨0xff7f0000, 0xf85f0000, .v6t2Above, decT32LsLit .ldrLitT2⟩,
    ⟨0xfff00000, 0xf8d00000, .v6t2Above, decT32LsImm12 .ldrImmT3⟩,
    ⟨0xfff00800, 0xf8500800, .v6t2Above, decT32LsImm8 .ldrImmT4⟩,
    ⟨0xfff00fc0, 0xf8500000, .v6t2Above, decT32LsReg .ldrRegT2⟩,
    ⟨0xff7f0000, 0xf81f0000, .v6t2Above, decT32LsLit .ldrbLitT1⟩,
    ⟨0xfff00000, 0xf8900000, .v6t2Above, decT32LsImm12 .ldrbImmT2⟩,
    ⟨0xfff00800, 0xf8100800, .v6t2Above, decT32LsImm8 .ldrbImmT3⟩ ]

/-- The Thumb table (R101), 32-bit rows, rows 61 to 67 of this width. -/
def thumb32Table6 : List Row :=
  [ ⟨0xfff00fc0, 0xf8100000, .v6t2Above, decT32LsReg .ldrbRegT2⟩,
    ⟨0xfff00000, 0xf8c00000, .v6t2Above, decT32LsImm12 .strImmT3⟩,
    ⟨0xfff00800, 0xf8400800, .v6t2Above, decT32LsImm8 .strImmT4⟩,
    ⟨0xfff00fc0, 0xf8400000, .v6t2Above, decT32LsReg .strRegT2⟩,
    ⟨0xfff00000, 0xf8800000, .v6t2Above, decT32LsImm12 .strbImmT2⟩,
    ⟨0xfff00800, 0xf8000800, .v6t2Above, decT32LsImm8 .strbImmT3⟩,
    ⟨0xfff00fc0, 0xf8000000, .v6t2Above, decT32LsReg .strbRegT2⟩ ]

/-- The Thumb table (R101), 32-bit rows, in scan order: the first matching row wins (R92). -/
def thumb32Table : List Row :=
  thumb32Table1 ++ thumb32Table2 ++ thumb32Table3 ++ thumb32Table4 ++ thumb32Table5 ++ thumb32Table6

/-- The rows that can match an instruction of this set and width (R90, R92). There is no 16-bit ARM instruction. -/
def tableOf : InstrSet → Width → List Row
  | .arm, .w32 => armTable
  | .arm, .w16 => []
  | .thumb, .w16 => thumb16Table
  | .thumb, .w32 => thumb32Table

/-- The first row that matches (R92). `gate` is the variant filter of rule R93: `some a` skips every row whose variant set
does not contain `a`, `none` skips none. -/
def lookupIn (gate : Option ArchVariant) (w : Word) : List Row → Option Instr
  | [] => none
  | r :: rest =>
    if r.hits w && (match gate with | none => true | some a => r.variants.admits a) then some (r.build w)
    else lookupIn gate w rest

/-- Stage Decode without the parameters' filters (R92, R115): the instruction of a word, `none` where no row matches. -/
def decode (set : InstrSet) (width : Width) (raw : Word) : Option Instr :=
  lookupIn none raw (tableOf set width)

/-- Rule R94 with `STRICT_COND_1111`: an ARM word with bits 31:28 = 1111 is accepted for BLX (immediate) A2 only.
That stage Decode refuses it is the model's choice (DEDUCED, log 13). -/
def strictCondRejects (set : InstrSet) (raw : Word) (i : Instr) : Bool :=
  set == .arm && fld raw 28 4 == 15 && !(match i with | .blxImmA2 .. => true | _ => false)

/-- Stage Decode (R385) under the instance's parameters: the scan with the variant filter of rule R93, then rule
R94 on the selected row (log 13). -/
def lookup (p : Params) (arch : ArchVariant) (set : InstrSet) (width : Width) (raw : Word) : Option Instr :=
  match lookupIn (if p.strictVariantGating then some arch else none) raw (tableOf set width) with
  | none => none
  | some i => if p.strictCond1111 && strictCondRejects set raw i then none else some i

/-! ## Bytes (rules R64, R95, R96) -/

/-- A first halfword that begins a 32-bit Thumb instruction: its top five bits are 11101, 11110 or 11111 (R95). -/
def thumbIsWide (hw1 : BitVec 16) : Bool :=
  let top := hw1.extractLsb' 11 5
  top == 0b11101 || top == 0b11110 || top == 0b11111

/-- A little-endian halfword (R64). -/
def halfLE (b0 b1 : Byte) : BitVec 16 := b1 ++ b0

/-- A little-endian word (R64). -/
def wordLE (b0 b1 b2 b3 : Byte) : Word := b3 ++ b2 ++ b1 ++ b0

/-- Why a list of bytes is no instruction. -/
inductive DecodeError where
  /-- The list ends inside the instruction. -/
  | truncated
  /-- No row matches the word (R115, `UnsupportedEncoding`). -/
  | noRow (set : InstrSet) (width : Width) (raw : Word)
  deriving DecidableEq, Repr

/-- A looked-up word, or its refusal by name. -/
def decodeWord (set : InstrSet) (width : Width) (raw : Word) (rest : List Byte) : Except DecodeError (Instr × List Byte) :=
  match decode set width raw with
  | some i => .ok (i, rest)
  | none => .error (.noRow set width raw)

/-- The decoder on bytes, lowest address first: the instruction and the bytes after it, or why there is none. -/
def decodeBytes : InstrSet → List Byte → Except DecodeError (Instr × List Byte)
  | .arm, b0 :: b1 :: b2 :: b3 :: rest => decodeWord .arm .w32 (wordLE b0 b1 b2 b3) rest
  | .arm, _ => .error .truncated
  | .thumb, b0 :: b1 :: rest =>
    if thumbIsWide (halfLE b0 b1) then
      match rest with
      | b2 :: b3 :: rest' => decodeWord .thumb .w32 (halfLE b0 b1 ++ halfLE b2 b3) rest'
      | _ => .error .truncated
    else decodeWord .thumb .w16 ((halfLE b0 b1).setWidth 32) rest
  | .thumb, _ => .error .truncated

/-! ## A word as the opcode table numbers it -/

/-- The instruction set in which a table word of `nbits` bits is read (log 10): 16-bit rows are Thumb rows; a 32-bit word
whose top five bits begin a wide Thumb instruction and that a Thumb row matches is Thumb, every other one ARM. -/
def tableWordSet (nbits w : Nat) : InstrSet :=
  if nbits = 16 then .thumb
  else if thumbIsWide (BitVec.ofNat 16 (w / 65536)) && (decode .thumb .w32 (BitVec.ofNat 32 w)).isSome then .thumb
  else .arm

/-- The bytes of a table word, lowest address first, as the hardware stores them (R64, R96). The opcode table numbers a
32-bit Thumb word with its first halfword in bits 31:16. -/
def tableWordBytes (nbits w : Nat) : List Byte :=
  let v : Word := BitVec.ofNat 32 w
  match tableWordSet nbits w with
  | .arm => [fld v 0 8, fld v 8 8, fld v 16 8, fld v 24 8]
  | .thumb =>
    if nbits = 16 then [fld v 0 8, fld v 8 8, 0, 0]
    else [fld v 16 8, fld v 24 8, fld v 0 8, fld v 8 8]

/-- The instruction the decoder reads from a word as spec/opcode_table.json numbers it (log 10). -/
def decodeTableWord (nbits w : Nat) : Option Instr :=
  if nbits = 16 || nbits = 32 then
    match decodeBytes (tableWordSet nbits w) (tableWordBytes nbits w) with
    | .ok (i, _) => some i
    | .error _ => none
  else none

/-! ## The encoder -/

/-- A_reglist (R102) over the row's fixed bits. -/
def encAReglist (value : Word) (cond : BitVec 4) (regs : BitVec 16) : Word :=
  value ||| place cond 28 ||| place regs 0

/-- A_rt (R102) over the row's fixed bits. -/
def encARt (value : Word) (cond : BitVec 4) (rt : BitVec 4) : Word :=
  value ||| place cond 28 ||| place rt 12

/-- A_vlist (R102) over the row's fixed bits. -/
def encAVlist (value : Word) (cond : BitVec 4) (dbit : BitVec 1) (vd : BitVec 4) (imm8 : BitVec 8) : Word :=
  value ||| place cond 28 ||| place dbit 22 ||| place vd 12 ||| place imm8 0

/-- A_imm24 (R102) over the row's fixed bits. -/
def encAImm24 (value : Word) (cond : BitVec 4) (imm24 : BitVec 24) : Word :=
  value ||| place cond 28 ||| place imm24 0

/-- A_blx (R102) over the row's fixed bits. -/
def encABlx (value : Word) (h : BitVec 1) (imm24 : BitVec 24) : Word :=
  value ||| place h 24 ||| place imm24 0

/-- A_rm (R102) over the row's fixed bits. -/
def encARm (value : Word) (cond : BitVec 4) (rm : BitVec 4) : Word :=
  value ||| place cond 28 ||| place rm 0

/-- A_dp_imm (R102) over the row's fixed bits. -/
def encADpImm (value : Word) (cond : BitVec 4) (setS : Bool) (rn : BitVec 4) (rd : BitVec 4) (imm12 : BitVec 12) : Word :=
  value ||| place cond 28 ||| flag setS 20 ||| place rn 16 ||| place rd 12 ||| place imm12 0

/-- A_dp_reg (R102) over the row's fixed bits. -/
def encADpReg (value : Word) (cond : BitVec 4) (setS : Bool) (rn : BitVec 4) (rd : BitVec 4) (imm5 : BitVec 5) (ty : BitVec 2) (rm : BitVec 4) : Word :=
  value ||| place cond 28 ||| flag setS 20 ||| place rn 16 ||| place rd 12 ||| place imm5 7 ||| place ty 5 ||| place rm 0

/-- A_cmp_imm (R102) over the row's fixed bits. -/
def encACmpImm (value : Word) (cond : BitVec 4) (rn : BitVec 4) (imm12 : BitVec 12) : Word :=
  value ||| place cond 28 ||| place rn 16 ||| place imm12 0

/-- A_cmp_reg (R102) over the row's fixed bits. -/
def encACmpReg (value : Word) (cond : BitVec 4) (rn : BitVec 4) (imm5 : BitVec 5) (ty : BitVec 2) (rm : BitVec 4) : Word :=
  value ||| place cond 28 ||| place rn 16 ||| place imm5 7 ||| place ty 5 ||| place rm 0

/-- A_mvn_imm (R102) over the row's fixed bits. -/
def encAMvnImm (value : Word) (cond : BitVec 4) (setS : Bool) (rd : BitVec 4) (imm12 : BitVec 12) : Word :=
  value ||| place cond 28 ||| flag setS 20 ||| place rd 12 ||| place imm12 0

/-- A_mvn_reg (R102) over the row's fixed bits. -/
def encAMvnReg (value : Word) (cond : BitVec 4) (setS : Bool) (rd : BitVec 4) (imm5 : BitVec 5) (ty : BitVec 2) (rm : BitVec 4) : Word :=
  value ||| place cond 28 ||| flag setS 20 ||| place rd 12 ||| place imm5 7 ||| place ty 5 ||| place rm 0

/-- A_shift_imm (R102) over the row's fixed bits. -/
def encAShiftImm (value : Word) (cond : BitVec 4) (setS : Bool) (rd : BitVec 4) (imm5 : BitVec 5) (rm : BitVec 4) : Word :=
  value ||| place cond 28 ||| flag setS 20 ||| place rd 12 ||| place imm5 7 ||| place rm 0

/-- A_shift_reg (R102) over the row's fixed bits. -/
def encAShiftReg (value : Word) (cond : BitVec 4) (setS : Bool) (rd : BitVec 4) (rm : BitVec 4) (rn : BitVec 4) : Word :=
  value ||| place cond 28 ||| flag setS 20 ||| place rd 12 ||| place rm 8 ||| place rn 0

/-- A_rrx (R102) over the row's fixed bits. -/
def encARrx (value : Word) (cond : BitVec 4) (setS : Bool) (rd : BitVec 4) (rm : BitVec 4) : Word :=
  value ||| place cond 28 ||| flag setS 20 ||| place rd 12 ||| place rm 0

/-- A_ldm (R102) over the row's fixed bits. -/
def encALdm (value : Word) (cond : BitVec 4) (w : Bool) (rn : BitVec 4) (regs : BitVec 16) : Word :=
  value ||| place cond 28 ||| flag w 21 ||| place rn 16 ||| place regs 0

/-- A_ls_lit (R102) over the row's fixed bits. -/
def encALsLit (value : Word) (cond : BitVec 4) (u : Bool) (rt : BitVec 4) (imm12 : BitVec 12) : Word :=
  value ||| place cond 28 ||| flag u 23 ||| place rt 12 ||| place imm12 0

/-- A_ls_imm (R102) over the row's fixed bits. -/
def encALsImm (value : Word) (cond : BitVec 4) (p : Bool) (u : Bool) (w : Bool) (rn : BitVec 4) (rt : BitVec 4) (imm12 : BitVec 12) : Word :=
  value ||| place cond 28 ||| flag p 24 ||| flag u 23 ||| flag w 21 ||| place rn 16 ||| place rt 12 ||| place imm12 0

/-- A_ls_reg (R102) over the row's fixed bits. -/
def encALsReg (value : Word) (cond : BitVec 4) (p : Bool) (u : Bool) (w : Bool) (rn : BitVec 4) (rt : BitVec 4) (imm5 : BitVec 5) (ty : BitVec 2) (rm : BitVec 4) : Word :=
  value ||| place cond 28 ||| flag p 24 ||| flag u 23 ||| flag w 21 ||| place rn 16 ||| place rt 12 ||| place imm5 7 ||| place ty 5 ||| place rm 0

/-- T16_push (R103) over the row's fixed bits. -/
def encT16Push (value : Word) (m : Bool) (regs : BitVec 8) : Word :=
  value ||| flag m 8 ||| place regs 0

/-- T16_pop (R103) over the row's fixed bits. -/
def encT16Pop (value : Word) (p : Bool) (regs : BitVec 8) : Word :=
  value ||| flag p 8 ||| place regs 0

/-- T16_sprd (R103) over the row's fixed bits. -/
def encT16Sprd (value : Word) (rd : BitVec 3) (imm8 : BitVec 8) : Word :=
  value ||| place rd 8 ||| place imm8 0

/-- T16_sp7 (R103) over the row's fixed bits. -/
def encT16Sp7 (value : Word) (imm7 : BitVec 7) : Word :=
  value ||| place imm7 0

/-- T16_imm8 (R103) over the row's fixed bits. -/
def encT16Imm8 (value : Word) (imm8 : BitVec 8) : Word :=
  value ||| place imm8 0

/-- T16_bcond (R103) over the row's fixed bits. -/
def encT16Bcond (value : Word) (cond : BitVec 4) (imm8 : BitVec 8) : Word :=
  value ||| place cond 8 ||| place imm8 0

/-- T16_b (R103) over the row's fixed bits. -/
def encT16B (value : Word) (imm11 : BitVec 11) : Word :=
  value ||| place imm11 0

/-- T16_rm (R103) over the row's fixed bits. -/
def encT16Rm (value : Word) (rm : BitVec 4) : Word :=
  value ||| place rm 3

/-- T16_cb (R103) over the row's fixed bits. -/
def encT16Cb (value : Word) (i1 : BitVec 1) (imm5 : BitVec 5) (rn : BitVec 3) : Word :=
  value ||| place i1 9 ||| place imm5 3 ||| place rn 0

/-- T16_it (R103) over the row's fixed bits. -/
def encT16It (value : Word) (firstcond : BitVec 4) (mask : BitVec 4) : Word :=
  value ||| place firstcond 4 ||| place mask 0

/-- T16_dp (R103) over the row's fixed bits. -/
def encT16Dp (value : Word) (rm : BitVec 3) (rdn : BitVec 3) : Word :=
  value ||| place rm 3 ||| place rdn 0

/-- T16_imm3 (R103) over the row's fixed bits. -/
def encT16Imm3 (value : Word) (imm3 : BitVec 3) (rn : BitVec 3) (rd : BitVec 3) : Word :=
  value ||| place imm3 6 ||| place rn 3 ||| place rd 0

/-- T16_rdn_imm8 (R103) over the row's fixed bits. -/
def encT16RdnImm8 (value : Word) (rdn : BitVec 3) (imm8 : BitVec 8) : Word :=
  value ||| place rdn 8 ||| place imm8 0

/-- T16_reg3 (R103) over the row's fixed bits. -/
def encT16Reg3 (value : Word) (rm : BitVec 3) (rn : BitVec 3) (rd : BitVec 3) : Word :=
  value ||| place rm 6 ||| place rn 3 ||| place rd 0

/-- T16_hi (R103) over the row's fixed bits. -/
def encT16Hi (value : Word) (dn : BitVec 1) (rm : BitVec 4) (rdn : BitVec 3) : Word :=
  value ||| place dn 7 ||| place rm 3 ||| place rdn 0

/-- T16_shift_imm (R103) over the row's fixed bits. -/
def encT16ShiftImm (value : Word) (imm5 : BitVec 5) (rm : BitVec 3) (rd : BitVec 3) : Word :=
  value ||| place imm5 6 ||| place rm 3 ||| place rd 0

/-- T16_ldm (R103) over the row's fixed bits. -/
def encT16Ldm (value : Word) (rn : BitVec 3) (regs : BitVec 8) : Word :=
  value ||| place rn 8 ||| place regs 0

/-- T16_ls_imm5 (R103) over the row's fixed bits. -/
def encT16LsImm5 (value : Word) (imm5 : BitVec 5) (rn : BitVec 3) (rt : BitVec 3) : Word :=
  value ||| place imm5 6 ||| place rn 3 ||| place rt 0

/-- T16_rt_imm8 (R103) over the row's fixed bits. -/
def encT16RtImm8 (value : Word) (rt : BitVec 3) (imm8 : BitVec 8) : Word :=
  value ||| place rt 8 ||| place imm8 0

/-- T16_ls_reg (R103) over the row's fixed bits. -/
def encT16LsReg (value : Word) (rm : BitVec 3) (rn : BitVec 3) (rt : BitVec 3) : Word :=
  value ||| place rm 6 ||| place rn 3 ||| place rt 0

/-- T32_reglist (R104) over the row's fixed bits. -/
def encT32ReglistPush (value : Word) (m : Bool) (regs : BitVec 13) : Word :=
  value ||| flag m 14 ||| place regs 0

/-- T32_rt (R104) over the row's fixed bits. -/
def encT32Rt (value : Word) (rt : BitVec 4) : Word :=
  value ||| place rt 12

/-- T32_reglist (R104) over the row's fixed bits. -/
def encT32Reglist (value : Word) (p : Bool) (m : Bool) (regs : BitVec 13) : Word :=
  value ||| flag p 15 ||| flag m 14 ||| place regs 0

/-- T32_vlist (R104) over the row's fixed bits. -/
def encT32Vlist (value : Word) (dbit : BitVec 1) (vd : BitVec 4) (imm8 : BitVec 8) : Word :=
  value ||| place dbit 22 ||| place vd 12 ||| place imm8 0

/-- T32_bcond (R104) over the row's fixed bits. -/
def encT32Bcond (value : Word) (sgn : BitVec 1) (cond : BitVec 4) (imm6 : BitVec 6) (j1 : BitVec 1) (j2 : BitVec 1) (imm11 : BitVec 11) : Word :=
  value ||| place sgn 26 ||| place cond 22 ||| place imm6 16 ||| place j1 13 ||| place j2 11 ||| place imm11 0

/-- T32_b (R104) over the row's fixed bits. -/
def encT32B (value : Word) (sgn : BitVec 1) (imm10 : BitVec 10) (j1 : BitVec 1) (j2 : BitVec 1) (imm11 : BitVec 11) : Word :=
  value ||| place sgn 26 ||| place imm10 16 ||| place j1 13 ||| place j2 11 ||| place imm11 0

/-- T32_blx (R104) over the row's fixed bits. -/
def encT32Blx (value : Word) (sgn : BitVec 1) (imm10h : BitVec 10) (j1 : BitVec 1) (j2 : BitVec 1) (imm10l : BitVec 10) (h : BitVec 1) : Word :=
  value ||| place sgn 26 ||| place imm10h 16 ||| place j1 13 ||| place j2 11 ||| place imm10l 1 ||| place h 0

/-- T32_tb (R104) over the row's fixed bits. -/
def encT32Tb (value : Word) (rn : BitVec 4) (rm : BitVec 4) : Word :=
  value ||| place rn 16 ||| place rm 0

/-- T32_modimm (R104) over the row's fixed bits. -/
def encT32ModimmCmp (value : Word) (i1 : BitVec 1) (rn : BitVec 4) (imm3 : BitVec 3) (imm8 : BitVec 8) : Word :=
  value ||| place i1 26 ||| place rn 16 ||| place imm3 12 ||| place imm8 0

/-- T32_dp_reg (R104) over the row's fixed bits. -/
def encT32DpRegCmp (value : Word) (rn : BitVec 4) (imm3 : BitVec 3) (imm2 : BitVec 2) (ty : BitVec 2) (rm : BitVec 4) : Word :=
  value ||| place rn 16 ||| place imm3 12 ||| place imm2 6 ||| place ty 4 ||| place rm 0

/-- T32_modimm (R104) over the row's fixed bits. -/
def encT32Modimm (value : Word) (i1 : BitVec 1) (setS : Bool) (rn : BitVec 4) (imm3 : BitVec 3) (rd : BitVec 4) (imm8 : BitVec 8) : Word :=
  value ||| place i1 26 ||| flag setS 20 ||| place rn 16 ||| place imm3 12 ||| place rd 8 ||| place imm8 0

/-- T32_dp_reg (R104) over the row's fixed bits. -/
def encT32DpReg (value : Word) (setS : Bool) (rn : BitVec 4) (imm3 : BitVec 3) (rd : BitVec 4) (imm2 : BitVec 2) (ty : BitVec 2) (rm : BitVec 4) : Word :=
  value ||| flag setS 20 ||| place rn 16 ||| place imm3 12 ||| place rd 8 ||| place imm2 6 ||| place ty 4 ||| place rm 0

/-- T32_plain12 (R104) over the row's fixed bits. -/
def encT32Plain12 (value : Word) (i1 : BitVec 1) (rn : BitVec 4) (imm3 : BitVec 3) (rd : BitVec 4) (imm8 : BitVec 8) : Word :=
  value ||| place i1 26 ||| place rn 16 ||| place imm3 12 ||| place rd 8 ||| place imm8 0

/-- T32_modimm (R104) over the row's fixed bits. -/
def encT32ModimmMvn (value : Word) (i1 : BitVec 1) (setS : Bool) (imm3 : BitVec 3) (rd : BitVec 4) (imm8 : BitVec 8) : Word :=
  value ||| place i1 26 ||| flag setS 20 ||| place imm3 12 ||| place rd 8 ||| place imm8 0

/-- T32_dp_reg (R104) over the row's fixed bits. -/
def encT32DpRegMvn (value : Word) (setS : Bool) (imm3 : BitVec 3) (rd : BitVec 4) (imm2 : BitVec 2) (ty : BitVec 2) (rm : BitVec 4) : Word :=
  value ||| flag setS 20 ||| place imm3 12 ||| place rd 8 ||| place imm2 6 ||| place ty 4 ||| place rm 0

/-- T32_shift_imm (R104) over the row's fixed bits. -/
def encT32ShiftImm (value : Word) (setS : Bool) (imm3 : BitVec 3) (rd : BitVec 4) (imm2 : BitVec 2) (rm : BitVec 4) : Word :=
  value ||| flag setS 20 ||| place imm3 12 ||| place rd 8 ||| place imm2 6 ||| place rm 0

/-- T32_rrx (R104) over the row's fixed bits. -/
def encT32Rrx (value : Word) (setS : Bool) (rd : BitVec 4) (rm : BitVec 4) : Word :=
  value ||| flag setS 20 ||| place rd 8 ||| place rm 0

/-- T32_shift_reg (R104) over the row's fixed bits. -/
def encT32ShiftReg (value : Word) (setS : Bool) (rn : BitVec 4) (rd : BitVec 4) (rm : BitVec 4) : Word :=
  value ||| flag setS 20 ||| place rn 16 ||| place rd 8 ||| place rm 0

/-- T32_ldm (R104) over the row's fixed bits. -/
def encT32Ldm (value : Word) (w : Bool) (rn : BitVec 4) (p : Bool) (m : Bool) (regs : BitVec 13) : Word :=
  value ||| flag w 21 ||| place rn 16 ||| flag p 15 ||| flag m 14 ||| place regs 0

/-- T32_ldm (R104) over the row's fixed bits. -/
def encT32LdmStore (value : Word) (w : Bool) (rn : BitVec 4) (m : Bool) (regs : BitVec 13) : Word :=
  value ||| flag w 21 ||| place rn 16 ||| flag m 14 ||| place regs 0

/-- T32_ls_lit (R104) over the row's fixed bits. -/
def encT32LsLit (value : Word) (u : Bool) (rt : BitVec 4) (imm12 : BitVec 12) : Word :=
  value ||| flag u 23 ||| place rt 12 ||| place imm12 0

/-- T32_ls_imm12 (R104) over the row's fixed bits. -/
def encT32LsImm12 (value : Word) (rn : BitVec 4) (rt : BitVec 4) (imm12 : BitVec 12) : Word :=
  value ||| place rn 16 ||| place rt 12 ||| place imm12 0

/-- T32_ls_imm8 (R104) over the row's fixed bits. -/
def encT32LsImm8 (value : Word) (rn : BitVec 4) (rt : BitVec 4) (p : Bool) (u : Bool) (w : Bool) (imm8 : BitVec 8) : Word :=
  value ||| place rn 16 ||| place rt 12 ||| flag p 10 ||| flag u 9 ||| flag w 8 ||| place imm8 0

/-- T32_ls_reg (R104) over the row's fixed bits. -/
def encT32LsReg (value : Word) (rn : BitVec 4) (rt : BitVec 4) (imm2 : BitVec 2) (rm : BitVec 4) : Word :=
  value ||| place rn 16 ||| place rt 12 ||| place imm2 4 ||| place rm 0

/-- The word of an instruction, written from the rows' fixed bits and formats (R100 to R104). -/
def encode : Instr → Word
  | .pushA1 cond regs => encAReglist 0x092d0000 cond regs
  | .pushA2 cond rt => encARt 0x052d0004 cond rt
  | .vpushA1 cond dbit vd imm8 => encAVlist 0x0d2d0b00 cond dbit vd imm8
  | .vpushA2 cond dbit vd imm8 => encAVlist 0x0d2d0a00 cond dbit vd imm8
  | .popA1 cond regs => encAReglist 0x08bd0000 cond regs
  | .popA2 cond rt => encARt 0x049d0004 cond rt
  | .vpopA1 cond dbit vd imm8 => encAVlist 0x0cbd0b00 cond dbit vd imm8
  | .vpopA2 cond dbit vd imm8 => encAVlist 0x0cbd0a00 cond dbit vd imm8
  | .svcA1 cond imm24 => encAImm24 0x0f000000 cond imm24
  | .blxImmA2 h imm24 => encABlx 0xfa000000 h imm24
  | .bA1 cond imm24 => encAImm24 0x0a000000 cond imm24
  | .blImmA1 cond imm24 => encAImm24 0x0b000000 cond imm24
  | .blxRegA1 cond rm => encARm 0x012fff30 cond rm
  | .bxA1 cond rm => encARm 0x012fff10 cond rm
  | .adcImmA1 cond setS rn rd imm12 => encADpImm 0x02a00000 cond setS rn rd imm12
  | .adcRegA1 cond setS rn rd imm5 ty rm => encADpReg 0x00a00000 cond setS rn rd imm5 ty rm
  | .addImmA1 cond setS rn rd imm12 => encADpImm 0x02800000 cond setS rn rd imm12
  | .addRegA1 cond setS rn rd imm5 ty rm => encADpReg 0x00800000 cond setS rn rd imm5 ty rm
  | .andImmA1 cond setS rn rd imm12 => encADpImm 0x02000000 cond setS rn rd imm12
  | .andRegA1 cond setS rn rd imm5 ty rm => encADpReg 0x00000000 cond setS rn rd imm5 ty rm
  | .eorImmA1 cond setS rn rd imm12 => encADpImm 0x02200000 cond setS rn rd imm12
  | .eorRegA1 cond setS rn rd imm5 ty rm => encADpReg 0x00200000 cond setS rn rd imm5 ty rm
  | .orrImmA1 cond setS rn rd imm12 => encADpImm 0x03800000 cond setS rn rd imm12
  | .orrRegA1 cond setS rn rd imm5 ty rm => encADpReg 0x01800000 cond setS rn rd imm5 ty rm
  | .rsbImmA1 cond setS rn rd imm12 => encADpImm 0x02600000 cond setS rn rd imm12
  | .rsbRegA1 cond setS rn rd imm5 ty rm => encADpReg 0x00600000 cond setS rn rd imm5 ty rm
  | .rscImmA1 cond setS rn rd imm12 => encADpImm 0x02e00000 cond setS rn rd imm12
  | .rscRegA1 cond setS rn rd imm5 ty rm => encADpReg 0x00e00000 cond setS rn rd imm5 ty rm
  | .subImmA1 cond setS rn rd imm12 => encADpImm 0x02400000 cond setS rn rd imm12
  | .subRegA1 cond setS rn rd imm5 ty rm => encADpReg 0x00400000 cond setS rn rd imm5 ty rm
  | .teqImmA1 cond rn imm12 => encACmpImm 0x03300000 cond rn imm12
  | .teqRegA1 cond rn imm5 ty rm => encACmpReg 0x01300000 cond rn imm5 ty rm
  | .tstImmA1 cond rn imm12 => encACmpImm 0x03100000 cond rn imm12
  | .tstRegA1 cond rn imm5 ty rm => encACmpReg 0x01100000 cond rn imm5 ty rm
  | .mvnImmA1 cond setS rd imm12 => encAMvnImm 0x03e00000 cond setS rd imm12
  | .mvnRegA1 cond setS rd imm5 ty rm => encAMvnReg 0x01e00000 cond setS rd imm5 ty rm
  | .cmnImmA1 cond rn imm12 => encACmpImm 0x03700000 cond rn imm12
  | .cmnRegA1 cond rn imm5 ty rm => encACmpReg 0x01700000 cond rn imm5 ty rm
  | .cmpImmA1 cond rn imm12 => encACmpImm 0x03500000 cond rn imm12
  | .cmpRegA1 cond rn imm5 ty rm => encACmpReg 0x01500000 cond rn imm5 ty rm
  | .asrImmA1 cond setS rd imm5 rm => encAShiftImm 0x01a00040 cond setS rd imm5 rm
  | .asrRegA1 cond setS rd rm rn => encAShiftReg 0x01a00050 cond setS rd rm rn
  | .lslImmA1 cond setS rd imm5 rm => encAShiftImm 0x01a00000 cond setS rd imm5 rm
  | .lslRegA1 cond setS rd rm rn => encAShiftReg 0x01a00010 cond setS rd rm rn
  | .lsrImmA1 cond setS rd imm5 rm => encAShiftImm 0x01a00020 cond setS rd imm5 rm
  | .lsrRegA1 cond setS rd rm rn => encAShiftReg 0x01a00030 cond setS rd rm rn
  | .rrxA1 cond setS rd rm => encARrx 0x01a00060 cond setS rd rm
  | .rorImmA1 cond setS rd imm5 rm => encAShiftImm 0x01a00060 cond setS rd imm5 rm
  | .rorRegA1 cond setS rd rm rn => encAShiftReg 0x01a00070 cond setS rd rm rn
  | .ldmA1 cond w rn regs => encALdm 0x08900000 cond w rn regs
  | .ldmdaA1 cond w rn regs => encALdm 0x08100000 cond w rn regs
  | .ldmdbA1 cond w rn regs => encALdm 0x09100000 cond w rn regs
  | .ldmibA1 cond w rn regs => encALdm 0x09900000 cond w rn regs
  | .ldrLitA1 cond u rt imm12 => encALsLit 0x051f0000 cond u rt imm12
  | .ldrImmA1 cond p u w rn rt imm12 => encALsImm 0x04100000 cond p u w rn rt imm12
  | .ldrRegA1 cond p u w rn rt imm5 ty rm => encALsReg 0x06100000 cond p u w rn rt imm5 ty rm
  | .ldrbLitA1 cond u rt imm12 => encALsLit 0x055f0000 cond u rt imm12
  | .ldrbImmA1 cond p u w rn rt imm12 => encALsImm 0x04500000 cond p u w rn rt imm12
  | .ldrbRegA1 cond p u w rn rt imm5 ty rm => encALsReg 0x06500000 cond p u w rn rt imm5 ty rm
  | .stmA1 cond w rn regs => encALdm 0x08800000 cond w rn regs
  | .stmdaA1 cond w rn regs => encALdm 0x08000000 cond w rn regs
  | .stmdbA1 cond w rn regs => encALdm 0x09000000 cond w rn regs
  | .stmibA1 cond w rn regs => encALdm 0x09800000 cond w rn regs
  | .strImmA1 cond p u w rn rt imm12 => encALsImm 0x04000000 cond p u w rn rt imm12
  | .strRegA1 cond p u w rn rt imm5 ty rm => encALsReg 0x06000000 cond p u w rn rt imm5 ty rm
  | .strbImmA1 cond p u w rn rt imm12 => encALsImm 0x04400000 cond p u w rn rt imm12
  | .strbRegA1 cond p u w rn rt imm5 ty rm => encALsReg 0x06400000 cond p u w rn rt imm5 ty rm
  | .pushT1 m regs => encT16Push 0x0000b400 m regs
  | .popT1 p regs => encT16Pop 0x0000bc00 p regs
  | .addSpImmT1 rd imm8 => encT16Sprd 0x0000a800 rd imm8
  | .addSpImmT2 imm7 => encT16Sp7 0x0000b000 imm7
  | .subSpImmT1 imm7 => encT16Sp7 0x0000b080 imm7
  | .svcT1 imm8 => encT16Imm8 0x0000df00 imm8
  | .bT1 cond imm8 => encT16Bcond 0x0000d000 cond imm8
  | .bT2 imm11 => encT16B 0x0000e000 imm11
  | .blxRegT1 rm => encT16Rm 0x00004780 rm
  | .bxT1 rm => encT16Rm 0x00004700 rm
  | .cbzT1 i1 imm5 rn => encT16Cb 0x0000b100 i1 imm5 rn
  | .cbnzT1 i1 imm5 rn => encT16Cb 0x0000b900 i1 imm5 rn
  | .itT1 firstcond mask => encT16It 0x0000bf00 firstcond mask
  | .adcRegT1 rm rdn => encT16Dp 0x00004140 rm rdn
  | .addImmT1 imm3 rn rd => encT16Imm3 0x00001c00 imm3 rn rd
  | .addImmT2 rdn imm8 => encT16RdnImm8 0x00003000 rdn imm8
  | .addRegT1 rm rn rd => encT16Reg3 0x00001800 rm rn rd
  | .addRegT2 dn rm rdn => encT16Hi 0x00004400 dn rm rdn
  | .andRegT1 rm rdn => encT16Dp 0x00004000 rm rdn
  | .eorRegT1 rm rdn => encT16Dp 0x00004040 rm rdn
  | .orrRegT1 rm rdn => encT16Dp 0x00004300 rm rdn
  | .mvnRegT1 rm rd => encT16Dp 0x000043c0 rm rd
  | .rsbImmT1 rn rd => encT16Dp 0x00004240 rn rd
  | .subImmT1 imm3 rn rd => encT16Imm3 0x00001e00 imm3 rn rd
  | .subImmT2 rdn imm8 => encT16RdnImm8 0x00003800 rdn imm8
  | .subRegT1 rm rn rd => encT16Reg3 0x00001a00 rm rn rd
  | .cmpImmT1 rn imm8 => encT16RdnImm8 0x00002800 rn imm8
  | .cmpRegT1 rm rn => encT16Dp 0x00004280 rm rn
  | .cmpRegT2 nbit rm rn => encT16Hi 0x00004500 nbit rm rn
  | .cmnRegT1 rm rn => encT16Dp 0x000042c0 rm rn
  | .tstRegT1 rm rn => encT16Dp 0x00004200 rm rn
  | .asrImmT1 imm5 rm rd => encT16ShiftImm 0x00001000 imm5 rm rd
  | .asrRegT1 rm rdn => encT16Dp 0x00004100 rm rdn
  | .lslImmT1 imm5 rm rd => encT16ShiftImm 0x00000000 imm5 rm rd
  | .lslRegT1 rm rdn => encT16Dp 0x00004080 rm rdn
  | .lsrImmT1 imm5 rm rd => encT16ShiftImm 0x00000800 imm5 rm rd
  | .lsrRegT1 rm rdn => encT16Dp 0x000040c0 rm rdn
  | .rorRegT1 rm rdn => encT16Dp 0x000041c0 rm rdn
  | .ldmT1 rn regs => encT16Ldm 0x0000c800 rn regs
  | .stmT1 rn regs => encT16Ldm 0x0000c000 rn regs
  | .ldrImmT1 imm5 rn rt => encT16LsImm5 0x00006800 imm5 rn rt
  | .ldrImmT2 rt imm8 => encT16RtImm8 0x00009800 rt imm8
  | .ldrLitT1 rt imm8 => encT16RtImm8 0x00004800 rt imm8
  | .ldrRegT1 rm rn rt => encT16LsReg 0x00005800 rm rn rt
  | .strImmT1 imm5 rn rt => encT16LsImm5 0x00006000 imm5 rn rt
  | .strImmT2 rt imm8 => encT16RtImm8 0x00009000 rt imm8
  | .strRegT1 rm rn rt => encT16LsReg 0x00005000 rm rn rt
  | .ldrbImmT1 imm5 rn rt => encT16LsImm5 0x00007800 imm5 rn rt
  | .ldrbRegT1 rm rn rt => encT16LsReg 0x00005c00 rm rn rt
  | .strbImmT1 imm5 rn rt => encT16LsImm5 0x00007000 imm5 rn rt
  | .strbRegT1 rm rn rt => encT16LsReg 0x00005400 rm rn rt
  | .pushT2 m regs => encT32ReglistPush 0xe92d0000 m regs
  | .pushT3 rt => encT32Rt 0xf84d0d04 rt
  | .popT2 p m regs => encT32Reglist 0xe8bd0000 p m regs
  | .popT3 rt => encT32Rt 0xf85d0b04 rt
  | .vpushT1 dbit vd imm8 => encT32Vlist 0xed2d0b00 dbit vd imm8
  | .vpushT2 dbit vd imm8 => encT32Vlist 0xed2d0a00 dbit vd imm8
  | .vpopT1 dbit vd imm8 => encT32Vlist 0xecbd0b00 dbit vd imm8
  | .vpopT2 dbit vd imm8 => encT32Vlist 0xecbd0a00 dbit vd imm8
  | .bT3 sgn cond imm6 j1 j2 imm11 => encT32Bcond 0xf0008000 sgn cond imm6 j1 j2 imm11
  | .bT4 sgn imm10 j1 j2 imm11 => encT32B 0xf0009000 sgn imm10 j1 j2 imm11
  | .blxImmT2 sgn imm10h j1 j2 imm10l h => encT32Blx 0xf000c000 sgn imm10h j1 j2 imm10l h
  | .blImmT1 sgn imm10 j1 j2 imm11 => encT32B 0xf000d000 sgn imm10 j1 j2 imm11
  | .tbbT1 rn rm => encT32Tb 0xe8d0f000 rn rm
  | .tbhT1 rn rm => encT32Tb 0xe8d0f010 rn rm
  | .cmnImmT1 i1 rn imm3 imm8 => encT32ModimmCmp 0xf1100f00 i1 rn imm3 imm8
  | .cmpImmT2 i1 rn imm3 imm8 => encT32ModimmCmp 0xf1b00f00 i1 rn imm3 imm8
  | .tstImmT1 i1 rn imm3 imm8 => encT32ModimmCmp 0xf0100f00 i1 rn imm3 imm8
  | .teqImmT1 i1 rn imm3 imm8 => encT32ModimmCmp 0xf0900f00 i1 rn imm3 imm8
  | .cmnRegT2 rn imm3 imm2 ty rm => encT32DpRegCmp 0xeb100f00 rn imm3 imm2 ty rm
  | .cmpRegT3 rn imm3 imm2 ty rm => encT32DpRegCmp 0xebb00f00 rn imm3 imm2 ty rm
  | .tstRegT2 rn imm3 imm2 ty rm => encT32DpRegCmp 0xea100f00 rn imm3 imm2 ty rm
  | .teqRegT1 rn imm3 imm2 ty rm => encT32DpRegCmp 0xea900f00 rn imm3 imm2 ty rm
  | .adcImmT1 i1 setS rn imm3 rd imm8 => encT32Modimm 0xf1400000 i1 setS rn imm3 rd imm8
  | .adcRegT2 setS rn imm3 rd imm2 ty rm => encT32DpReg 0xeb400000 setS rn imm3 rd imm2 ty rm
  | .addImmT3 i1 setS rn imm3 rd imm8 => encT32Modimm 0xf1000000 i1 setS rn imm3 rd imm8
  | .addImmT4 i1 rn imm3 rd imm8 => encT32Plain12 0xf2000000 i1 rn imm3 rd imm8
  | .addRegT3 setS rn imm3 rd imm2 ty rm => encT32DpReg 0xeb000000 setS rn imm3 rd imm2 ty rm
  | .andImmT1 i1 setS rn imm3 rd imm8 => encT32Modimm 0xf0000000 i1 setS rn imm3 rd imm8
  | .andRegT2 setS rn imm3 rd imm2 ty rm => encT32DpReg 0xea000000 setS rn imm3 rd imm2 ty rm
  | .eorImmT1 i1 setS rn imm3 rd imm8 => encT32Modimm 0xf0800000 i1 setS rn imm3 rd imm8
  | .eorRegT2 setS rn imm3 rd imm2 ty rm => encT32DpReg 0xea800000 setS rn imm3 rd imm2 ty rm
  | .mvnImmT1 i1 setS imm3 rd imm8 => encT32ModimmMvn 0xf06f0000 i1 setS imm3 rd imm8
  | .mvnRegT2 setS imm3 rd imm2 ty rm => encT32DpRegMvn 0xea6f0000 setS imm3 rd imm2 ty rm
  | .lslImmT2 setS imm3 rd imm2 rm => encT32ShiftImm 0xea4f0000 setS imm3 rd imm2 rm
  | .lsrImmT2 setS imm3 rd imm2 rm => encT32ShiftImm 0xea4f0010 setS imm3 rd imm2 rm
  | .asrImmT2 setS imm3 rd imm2 rm => encT32ShiftImm 0xea4f0020 setS imm3 rd imm2 rm
  | .rrxT1 setS rd rm => encT32Rrx 0xea4f0030 setS rd rm
  | .rorImmT1 setS imm3 rd imm2 rm => encT32ShiftImm 0xea4f0030 setS imm3 rd imm2 rm
  | .orrImmT1 i1 setS rn imm3 rd imm8 => encT32Modimm 0xf0400000 i1 setS rn imm3 rd imm8
  | .orrRegT2 setS rn imm3 rd imm2 ty rm => encT32DpReg 0xea400000 setS rn imm3 rd imm2 ty rm
  | .rsbImmT2 i1 setS rn imm3 rd imm8 => encT32Modimm 0xf1c00000 i1 setS rn imm3 rd imm8
  | .rsbRegT1 setS rn imm3 rd imm2 ty rm => encT32DpReg 0xebc00000 setS rn imm3 rd imm2 ty rm
  | .subImmT3 i1 setS rn imm3 rd imm8 => encT32Modimm 0xf1a00000 i1 setS rn imm3 rd imm8
  | .subImmT4 i1 rn imm3 rd imm8 => encT32Plain12 0xf2a00000 i1 rn imm3 rd imm8
  | .subRegT2 setS rn imm3 rd imm2 ty rm => encT32DpReg 0xeba00000 setS rn imm3 rd imm2 ty rm
  | .asrRegT2 setS rn rd rm => encT32ShiftReg 0xfa40f000 setS rn rd rm
  | .lslRegT2 setS rn rd rm => encT32ShiftReg 0xfa00f000 setS rn rd rm
  | .lsrRegT2 setS rn rd rm => encT32ShiftReg 0xfa20f000 setS rn rd rm
  | .rorRegT2 setS rn rd rm => encT32ShiftReg 0xfa60f000 setS rn rd rm
  | .ldmT2 w rn p m regs => encT32Ldm 0xe8900000 w rn p m regs
  | .ldmdbT1 w rn p m regs => encT32Ldm 0xe9100000 w rn p m regs
  | .stmT2 w rn m regs => encT32LdmStore 0xe8800000 w rn m regs
  | .stmdbT1 w rn m regs => encT32LdmStore 0xe9000000 w rn m regs
  | .ldrLitT2 u rt imm12 => encT32LsLit 0xf85f0000 u rt imm12
  | .ldrImmT3 rn rt imm12 => encT32LsImm12 0xf8d00000 rn rt imm12
  | .ldrImmT4 rn rt p u w imm8 => encT32LsImm8 0xf8500800 rn rt p u w imm8
  | .ldrRegT2 rn rt imm2 rm => encT32LsReg 0xf8500000 rn rt imm2 rm
  | .ldrbLitT1 u rt imm12 => encT32LsLit 0xf81f0000 u rt imm12
  | .ldrbImmT2 rn rt imm12 => encT32LsImm12 0xf8900000 rn rt imm12
  | .ldrbImmT3 rn rt p u w imm8 => encT32LsImm8 0xf8100800 rn rt p u w imm8
  | .ldrbRegT2 rn rt imm2 rm => encT32LsReg 0xf8100000 rn rt imm2 rm
  | .strImmT3 rn rt imm12 => encT32LsImm12 0xf8c00000 rn rt imm12
  | .strImmT4 rn rt p u w imm8 => encT32LsImm8 0xf8400800 rn rt p u w imm8
  | .strRegT2 rn rt imm2 rm => encT32LsReg 0xf8400000 rn rt imm2 rm
  | .strbImmT2 rn rt imm12 => encT32LsImm12 0xf8800000 rn rt imm12
  | .strbImmT3 rn rt p u w imm8 => encT32LsImm8 0xf8000800 rn rt p u w imm8
  | .strbRegT2 rn rt imm2 rm => encT32LsReg 0xf8000000 rn rt imm2 rm

/-- The instruction set and width of a constructor's row (R100, R101). -/
def Instr.form : Instr → InstrSet × Width
  | .pushA1 .. | .pushA2 .. | .vpushA1 .. | .vpushA2 .. | .popA1 .. | .popA2 .. | .vpopA1 ..
  | .vpopA2 .. | .svcA1 .. | .blxImmA2 .. | .bA1 .. | .blImmA1 .. | .blxRegA1 .. | .bxA1 ..
  | .adcImmA1 .. | .adcRegA1 .. | .addImmA1 .. | .addRegA1 .. | .andImmA1 .. | .andRegA1 .. | .eorImmA1 ..
  | .eorRegA1 .. | .orrImmA1 .. | .orrRegA1 .. | .rsbImmA1 .. | .rsbRegA1 .. | .rscImmA1 .. | .rscRegA1 ..
  | .subImmA1 .. | .subRegA1 .. | .teqImmA1 .. | .teqRegA1 .. | .tstImmA1 .. | .tstRegA1 .. | .mvnImmA1 ..
  | .mvnRegA1 .. | .cmnImmA1 .. | .cmnRegA1 .. | .cmpImmA1 .. | .cmpRegA1 .. | .asrImmA1 .. | .asrRegA1 ..
  | .lslImmA1 .. | .lslRegA1 .. | .lsrImmA1 .. | .lsrRegA1 .. | .rrxA1 .. | .rorImmA1 .. | .rorRegA1 ..
  | .ldmA1 .. | .ldmdaA1 .. | .ldmdbA1 .. | .ldmibA1 .. | .ldrLitA1 .. | .ldrImmA1 .. | .ldrRegA1 ..
  | .ldrbLitA1 .. | .ldrbImmA1 .. | .ldrbRegA1 .. | .stmA1 .. | .stmdaA1 .. | .stmdbA1 .. | .stmibA1 ..
  | .strImmA1 .. | .strRegA1 .. | .strbImmA1 .. | .strbRegA1 .. => (.arm, .w32)
  | .pushT1 .. | .popT1 .. | .addSpImmT1 .. | .addSpImmT2 .. | .subSpImmT1 .. | .svcT1 .. | .bT1 ..
  | .bT2 .. | .blxRegT1 .. | .bxT1 .. | .cbzT1 .. | .cbnzT1 .. | .itT1 .. | .adcRegT1 ..
  | .addImmT1 .. | .addImmT2 .. | .addRegT1 .. | .addRegT2 .. | .andRegT1 .. | .eorRegT1 .. | .orrRegT1 ..
  | .mvnRegT1 .. | .rsbImmT1 .. | .subImmT1 .. | .subImmT2 .. | .subRegT1 .. | .cmpImmT1 .. | .cmpRegT1 ..
  | .cmpRegT2 .. | .cmnRegT1 .. | .tstRegT1 .. | .asrImmT1 .. | .asrRegT1 .. | .lslImmT1 .. | .lslRegT1 ..
  | .lsrImmT1 .. | .lsrRegT1 .. | .rorRegT1 .. | .ldmT1 .. | .stmT1 .. | .ldrImmT1 .. | .ldrImmT2 ..
  | .ldrLitT1 .. | .ldrRegT1 .. | .strImmT1 .. | .strImmT2 .. | .strRegT1 .. | .ldrbImmT1 .. | .ldrbRegT1 ..
  | .strbImmT1 .. | .strbRegT1 .. => (.thumb, .w16)
  | .pushT2 .. | .pushT3 .. | .popT2 .. | .popT3 .. | .vpushT1 .. | .vpushT2 .. | .vpopT1 ..
  | .vpopT2 .. | .bT3 .. | .bT4 .. | .blxImmT2 .. | .blImmT1 .. | .tbbT1 .. | .tbhT1 ..
  | .cmnImmT1 .. | .cmpImmT2 .. | .tstImmT1 .. | .teqImmT1 .. | .cmnRegT2 .. | .cmpRegT3 .. | .tstRegT2 ..
  | .teqRegT1 .. | .adcImmT1 .. | .adcRegT2 .. | .addImmT3 .. | .addImmT4 .. | .addRegT3 .. | .andImmT1 ..
  | .andRegT2 .. | .eorImmT1 .. | .eorRegT2 .. | .mvnImmT1 .. | .mvnRegT2 .. | .lslImmT2 .. | .lsrImmT2 ..
  | .asrImmT2 .. | .rrxT1 .. | .rorImmT1 .. | .orrImmT1 .. | .orrRegT2 .. | .rsbImmT2 .. | .rsbRegT1 ..
  | .subImmT3 .. | .subImmT4 .. | .subRegT2 .. | .asrRegT2 .. | .lslRegT2 .. | .lsrRegT2 .. | .rorRegT2 ..
  | .ldmT2 .. | .ldmdbT1 .. | .stmT2 .. | .stmdbT1 .. | .ldrLitT2 .. | .ldrImmT3 .. | .ldrImmT4 ..
  | .ldrRegT2 .. | .ldrbLitT1 .. | .ldrbImmT2 .. | .ldrbImmT3 .. | .ldrbRegT2 .. | .strImmT3 .. | .strImmT4 ..
  | .strRegT2 .. | .strbImmT2 .. | .strbImmT3 .. | .strbRegT2 .. => (.thumb, .w32)

/-- The bytes of an instruction, lowest address first (R64, R96). -/
def encodeBytes (i : Instr) : List Byte :=
  let w := encode i
  match i.form with
  | (.arm, _) => [fld w 0 8, fld w 8 8, fld w 16 8, fld w 24 8]
  | (.thumb, .w16) => [fld w 0 8, fld w 8 8]
  | (.thumb, .w32) => [fld w 16 8, fld w 24 8, fld w 0 8, fld w 8 8]

end Sys2Proof
end

