-- ==== Sys2Proof/Machine/State.lean ====
section
/-! DEFINITION. The state of the machine as plain data: the block's internal state (10_state.md rules R21 to R28), the
environment it reaches through its port (rules R29 to R36, 49_svc_driver.md rule R394), the port calls made so far
(20_memory.md rule R78), and the host's side of a run (49_svc_driver.md rules R382, R392, R393). INVENTORY.md lists every
field with its rule and reset value. -/

namespace Sys2Proof.Machine

/-! ## The block -/

/-- `MODE`, the document's `ProcessorMode` (R26). -/
inductive Mode where
  | arm | thumb | invalid
  deriving DecidableEq, Repr

/-- `IT`, the document's `ITSession` (R27): the firstcond:mask byte and the number of instructions still inside the block. -/
structure ITSession where
  state : BitVec 8
  remaining : Nat
  deriving DecidableEq, Repr

/-- `INST`, the instruction latch (R22). -/
structure Latch where
  valid : Bool
  /-- The instruction word (a 32-bit Thumb word has its first halfword in bits 31:16). -/
  raw : Word
  width : Width
  mode : InstrSet
  /-- The fetch address. -/
  addr : Word
  /-- `CPSR_in`, the status value read at fetch (R31). -/
  cpsr : Word
  deriving DecidableEq, Repr

/-- The failure classes a command can report (R23, 60_exceptions.md rule R400). `FAULT` is one of them or None. -/
inductive Failure where
  /-- No row matches, or a handler's NOT_IN_SUBSET test holds (R401). -/
  | unsupportedEncoding
  /-- A handler's UNPREDICTABLE or UNDEFINED test holds (R402). -/
  | unpredictableOperands
  /-- A port call of `evaluateInstruction` answered `ok = false` (R403). -/
  | accessFailure
  /-- `readInstruction` failed (R404). -/
  | fetchFailure
  /-- `evaluateInstruction` without a valid latch (R406). -/
  | noInstruction
  /-- `setArchitecture` with an unrecognised name (R407). -/
  | invalidArchitecture
  deriving DecidableEq, Repr

/-! ## The port (20_memory.md rules R60, R75) -/

/-- A register of the port: kind and number (R35). -/
inductive PortReg where
  | core (n : RegNum)
  | status
  | extSingle (n : BitVec 5)
  | extDouble (n : BitVec 5)
  deriving DecidableEq, Repr

/-- The context tags of rule R75 with their payloads. Offsets and changes are 32-bit two's complement (log 11). -/
inductive Context where
  | immediate
  | branch
  /-- (register stored, offset of the address from the old SP). -/
  | stackPush (r : PortReg) (offset : Word)
  /-- (register loaded, offset of the address from the old SP). -/
  | stackPop (r : PortReg) (offset : Word)
  /-- (base register, change). -/
  | adjustBaseRegister (n : RegNum) (change : Word)
  /-- (SP, change). -/
  | adjustStackPointer (change : Word)
  /-- (register stored, base register, offset of the address from the old base value). -/
  | registerStore (r n : RegNum) (offset : Word)
  /-- (register loaded, base register, offset). -/
  | registerLoad (r n : RegNum) (offset : Word)
  /-- (SP, immediate). -/
  | registerPlusOffset (offset : Word)
  /-- (the immediate of the instruction, zero-extended). -/
  | supervisorCall (imm32 : Word)
  | tableBranch
  /-- (new mode). -/
  | modeChange (set : InstrSet)
  | advancePC
  | readOpcode
  | unknownValue
  deriving DecidableEq, Repr

/-- One port call as the host sees it (R60, R76): operation, tag, target, value (zero-extended to 64 bits; 0 for a refused
read) and the host's answer `ok`. `readRegister` carries no context and passes the default 0 (R35). -/
inductive PortCall where
  | readRegister (r : PortReg) (dflt value : DWord) (ok : Bool)
  | writeRegister (ctx : Context) (r : PortReg) (value : DWord) (ok : Bool)
  | readMemory (ctx : Context) (address : Word) (size : Nat) (value : DWord) (ok : Bool)
  | writeMemory (ctx : Context) (address : Word) (size : Nat) (value : DWord) (ok : Bool)
  deriving DecidableEq, Repr

/-- What a host can refuse to serve, answering `ok = false` (R61, R71; log 5): reading or writing a register, reading or
writing the byte at an address. -/
inductive PortTarget where
  | readReg (r : PortReg)
  | writeReg (r : PortReg)
  | readMem (a : Word)
  | writeMem (a : Word)
  deriving DecidableEq, Repr

/-! ## The host -/

/-- What the host can do between commands: issue a command (R382), make a new instance (R441), change its own environment
(R392, R453). -/
inductive HostAction where
  /-- The command `setArchitecture(name)` (R381); the name as its list of characters. -/
  | setArchitecture (name : List Char)
  /-- The command `readInstruction()` (R383). -/
  | readInstruction
  /-- The command `evaluateInstruction()` (R384). -/
  | evaluateInstruction
  /-- Creation of a new instance with these parameters: the block's reset (R440, R441). -/
  | newInstance (params : Params)
  /-- The host changes a core register of its own. -/
  | setCore (n : RegNum) (v : Word)
  /-- The host changes its status register. -/
  | setStatus (v : Word)
  /-- The host changes a doubleword extension register. -/
  | setExt (n : BitVec 5) (v : DWord)
  /-- The host changes, maps or unmaps a byte of its memory. -/
  | setByte (a : Word) (b : Option Byte)
  /-- The host changes which targets it refuses. -/
  | setRefusals (ts : List PortTarget)
  deriving DecidableEq, Repr

/-- Memory (R36, R394): a partial map from addresses to bytes, as a list of cells with strictly rising addresses. An address
that is not listed is unmapped. -/
abbrev Memory := List Host.Cell

/-! ## The state -/

/-- The whole machine. The fields down to `cpsrOut` are the block's, those from `core` to `refusals` the environment's, the
rest are the model's own (INVENTORY.md, State). -/
structure State where
  /-- The parameters of the instance (00_scope.md rule R6). -/
  params : Params
  /-- `ARCH` (R24). -/
  arch : ArchVariant
  /-- `MODE` (R26). -/
  mode : Mode
  /-- `IT` (R27). -/
  it : ITSession
  /-- `INST` (R22). -/
  inst : Latch
  /-- `FAULT` (R23): `none` is the class None. -/
  fault : Option Failure
  /-- `PC_WRITTEN` (R28), a working value of one command. -/
  pcWritten : Bool
  /-- `CPSR_out` (R32), a working value of one command. -/
  cpsrOut : Word
  /-- The core registers R0 to R15; 13 is SP, 14 LR, 15 PC (R33). -/
  core : Vector Word 16
  /-- The status register (R31). -/
  status : Word
  /-- The doubleword extension registers D0 to D31 (R34). -/
  ext : Vector DWord 32
  /-- Memory (R36). -/
  mem : Memory
  /-- The targets the host refuses (log 5). -/
  refusals : List PortTarget
  /-- How many UNKNOWN values have been drawn (R79, log 6). -/
  draws : Nat
  /-- The port calls made so far, newest first (R78). -/
  trace : List PortCall
  /-- The host's actions still to come (log 8). -/
  script : List HostAction
  /-- The reference run loop has stopped at a failed command (R393, R408, log 7). -/
  stopped : Bool
  deriving DecidableEq, Repr

/-- Why the reference run loop makes no further step (R393). -/
inductive Fault where
  /-- Raised by `step` when the previous step ended in a failed command: `Run` returned `Stopped(f)` and does not continue
  past it (R393, R408). Safe: no behaviour past the failure is claimed. -/
  | stopped (f : Option Failure)
  /-- Raised by `step` when register 15 holds `HALT_ADDRESS`: `Run` returns `Halted` (R393). Safe: it is the spec's end of a
  run. -/
  | halted
  deriving DecidableEq, Repr

/-- Why an instruction has no meaning. -/
inductive Refusal where
  /-- Raised by an arm of `exec` whose instruction is not modelled; no arm raises it now. Safe. -/
  | notModelled (mnemonic : String)
  deriving DecidableEq, Repr

/-! ## Reset (70_reset_and_hazards.md rule R440) -/

/-- The latch after reset: not valid; the other fields are unspecified, and hold zeros here (log 3). -/
def Latch.reset : Latch :=
  { valid := false, raw := 0, width := .w32, mode := .arm, addr := 0, cpsr := 0 }

/-- The machine right after reset, with the default parameters (R440, R6). The environment's registers hold zero (log 2), no
byte of memory is mapped (log 4), the host refuses nothing (log 5). -/
def State.reset : State :=
  { params := Params.default
    arch := .unknown
    mode := .invalid
    it := { state := 0, remaining := 0 }
    inst := Latch.reset
    fault := none
    pcWritten := false
    cpsrOut := 0
    core := Vector.replicate 16 0
    status := 0
    ext := Vector.replicate 32 0
    mem := []
    refusals := []
    draws := 0
    trace := []
    script := []
    stopped := false }

end Sys2Proof.Machine
end

