-- ==== Sys2Proof/Machine/Flags.lean ====
section
/-! DEFINITION. The flags (10_state.md rule R31), the adder (40_primitives.md rule R140), the conditions
(41_condition_it.md rule R175) and the staged status value (40_primitives.md rules R160, R161). All functions here are pure. -/

namespace Sys2Proof.Machine

/-! ## The status word (R31) -/

/-- The flag N, bit 31. -/
def flagN (cpsr : Word) : Bool := cpsr.getLsbD 31
/-- The flag Z, bit 30. -/
def flagZ (cpsr : Word) : Bool := cpsr.getLsbD 30
/-- The flag C, bit 29. -/
def flagC (cpsr : Word) : Bool := cpsr.getLsbD 29
/-- The flag V, bit 28. -/
def flagV (cpsr : Word) : Bool := cpsr.getLsbD 28
/-- The bit T, bit 5: 1 Thumb, 0 ARM. -/
def flagT (cpsr : Word) : Bool := cpsr.getLsbD 5

/-- A word with bit `pos` set to `b`, the other bits unchanged. -/
def setBit (w : Word) (pos : Nat) (b : Bool) : Word :=
  if b then w ||| 1#32 <<< pos else w &&& ~~~(1#32 <<< pos)

/-- A flag argument that may be the sentinel `KEEP` (R160), here `none`. -/
def setBitOpt (w : Word) (pos : Nat) : Option Bool → Word
  | none => w
  | some b => setBit w pos b

/-- The staged status value after `WriteFlags(result, carry, overflow)` (R161). -/
def packFlags (cpsr result : Word) (carry overflow : Option Bool) : Word :=
  setBitOpt (setBitOpt (setBit (setBit cpsr 31 result.msb) 30 (result == 0)) 29 carry) 28 overflow

/-! ## The adder (R140) -/

/-- `AddWithCarryResult` (R39): result, carry-out, overflow. -/
structure AddResult where
  result : Word
  carry : Bool
  overflow : Bool
  deriving DecidableEq, Repr

/-- `AddWithCarry(x, y, carry_in)` (R140): the sum is taken in the natural numbers. -/
def addWithCarry (x y : Word) (cin : Bool) : AddResult :=
  let usum := x.toNat + y.toNat + cin.toNat
  let result := BitVec.ofNat 32 usum
  { result := result
    carry := decide (2 ^ 32 ≤ usum)
    overflow := x.msb == y.msb && result.msb != x.msb }

/-! ## Conditions (R175) -/

/-- The predicate that the upper three bits of a condition select (R175). -/
def condPredicate (n z c v : Bool) : Nat → Bool
  | 0 => z
  | 1 => c
  | 2 => n
  | 3 => v
  | 4 => c && !z
  | 5 => n == v
  | 6 => n == v && !z
  | _ => true

/-- `ConditionPassed(cond)` on a status value (R175). -/
def conditionPassed (cond : BitVec 4) (cpsr : Word) : Bool :=
  let r := condPredicate (flagN cpsr) (flagZ cpsr) (flagC cpsr) (flagV cpsr) (cond.toNat / 2)
  if cond.getLsbD 0 && cond != 15 then !r else r

end Sys2Proof.Machine
end

