-- ==== Sys2Proof/Machine/Operands.lean ====
section
/-! DEFINITION. Operand forms: the shifter (40_primitives.md rules R132, R150), immediate expansion and shift decoding
(30_encoding.md rules R105 to R108), register lists and register numbers (R98), branch offsets (46_branch.md rules R305 to
R313), and the IT session's two steps (41_condition_it.md rules R171, R173). All functions here are pure. -/

namespace Sys2Proof.Machine

/-! ## Bits (R130, R131, R135, R136) -/

/-- `BitCount(x)` (R135). -/
def bitCount {w : Nat} (x : BitVec w) : Nat := (List.range w).countP x.getLsbD

/-- `trailingZeros(x)`, the width for zero (R136). -/
def trailingZeros {w : Nat} (x : BitVec w) : Nat := ((List.range w).find? x.getLsbD).getD w

/-- `LowestSetBit(x)` (R136). -/
def lowestSetBit {w : Nat} (x : BitVec w) : Nat := trailingZeros x

/-- `Align(x, 4)` (00_scope.md rule R8). -/
def align4 (x : Word) : Word := BitVec.ofNat 32 (x.toNat - x.toNat % 4)

/-- `rotateRight(x, n)` (R132). -/
def rotateRight (x : Word) (n : Nat) : Word :=
  let k := n % 32
  if k = 0 then x else x >>> k ||| x <<< (32 - k)

/-! ## The shifter (R150) -/

/-- The shift types of a `ShiftSpec` (R150). -/
inductive SRType where
  | lsl | lsr | asr | ror | rrx
  deriving DecidableEq, Repr

/-- `Shift_C(value, type, amount, carry_in)` (R150): the shifted value and the carry-out. -/
def shiftC (value : Word) (ty : SRType) (amount : Nat) (cin : Bool) : Word × Bool :=
  if ty = .rrx then
    ((if cin then 0x80000000 else 0) ||| value >>> 1, value.getLsbD 0)
  else if amount = 0 then (value, cin)
  else
    match ty with
    | .lsl =>
      if amount ≤ 32 then
        let wide := value.toNat <<< amount
        (BitVec.ofNat 32 wide, wide.testBit 32)
      else (0, false)
    | .lsr =>
      if amount ≤ 32 then (value >>> amount, value.getLsbD (amount - 1))
      else (0, false)
    | .asr =>
      if 32 ≤ amount then (if value.msb then 0xffffffff else 0, value.msb)
      else
        (if value.msb then value >>> amount ||| 0xffffffff#32 <<< (32 - amount) else value >>> amount,
          value.getLsbD (amount - 1))
    | .ror | .rrx =>
      let result := rotateRight value (amount % 32)
      (result, result.msb)

/-- `Shift` (R152): the first component of `Shift_C`. -/
def shift (value : Word) (ty : SRType) (amount : Nat) (cin : Bool) : Word := (shiftC value ty amount cin).1

/-- `DecodeImmShift(type, imm5)` (R107). -/
def decodeImmShift (ty : BitVec 2) (imm5 : BitVec 5) : SRType × Nat :=
  match ty.toNat with
  | 0 => (.lsl, imm5.toNat)
  | 1 => (.lsr, if imm5 = 0 then 32 else imm5.toNat)
  | 2 => (.asr, if imm5 = 0 then 32 else imm5.toNat)
  | _ => if imm5 = 0 then (.rrx, 1) else (.ror, imm5.toNat)

/-! ## Immediate expansion (R105, R106) -/

/-- `ARMExpandImm_C(imm12, carry_in)` (R105). -/
def armExpandImmC (imm12 : BitVec 12) (cin : Bool) : Word × Bool :=
  shiftC ((imm12.extractLsb' 0 8).setWidth 32) .ror (2 * (imm12.extractLsb' 8 4).toNat) cin

/-- `ThumbExpandImm_C(imm12, carry_in)` (R106); `none` is the rule's UNPREDICTABLE. -/
def thumbExpandImmC (imm12 : BitVec 12) (cin : Bool) : Option (Word × Bool) :=
  if imm12.extractLsb' 10 2 = 0 then
    let b := imm12.extractLsb' 0 8
    match (imm12.extractLsb' 8 2).toNat with
    | 0 => some (b.setWidth 32, cin)
    | 1 => if b = 0 then none else some (0#8 ++ b ++ 0#8 ++ b, cin)
    | 2 => if b = 0 then none else some (b ++ 0#8 ++ b ++ 0#8, cin)
    | _ => if b = 0 then none else some (b ++ b ++ b ++ b, cin)
  else
    some (shiftC ((1#1 ++ imm12.extractLsb' 0 7).setWidth 32) .ror (imm12.extractLsb' 7 5).toNat cin)

/-! ## Register numbers and lists (R98) -/

/-- `BadReg(r)` (R98). -/
def badReg (r : RegNum) : Bool := r == 13 || r == 15

/-- The register of a 3-bit field, 0 to 7 (R98). -/
def lowReg (r : BitVec 3) : RegNum := r.setWidth 4

/-- A register number split into its high bit and its low three bits, `DN:Rdn`, `N:Rn` (R98). -/
def splitReg (hi : BitVec 1) (lo : BitVec 3) : RegNum := hi ++ lo

/-- The list with one register only (42_stack.md rule R201, encodings T3 and A2). -/
def oneReg (t : RegNum) : BitVec 16 := 1#16 <<< t.toNat

/-- PUSH T1: `M : 000000 : register_list[7:0]`, M at bit 14 (R201). -/
def listM8 (m : Bool) (regs : BitVec 8) : BitVec 16 := 0#1 ++ BitVec.ofBool m ++ 0#6 ++ regs

/-- POP T1: `P : 0000000 : register_list[7:0]`, P at bit 15 (42_stack.md rule R202). -/
def listP8 (p : Bool) (regs : BitVec 8) : BitVec 16 := BitVec.ofBool p ++ 0#7 ++ regs

/-- LDM T1, STM T1: `00000000 : register_list[7:0]` (47_load_store_multiple.md rule R330). -/
def list8 (regs : BitVec 8) : BitVec 16 := 0#8 ++ regs

/-- T32 stores: `0 : M : 0 : register_list[12:0]` (R201, R330). -/
def listM13 (m : Bool) (regs : BitVec 13) : BitVec 16 := 0#1 ++ BitVec.ofBool m ++ 0#1 ++ regs

/-- T32 loads: `P : M : 0 : register_list[12:0]` (R202, R330). -/
def listPM13 (p m : Bool) (regs : BitVec 13) : BitVec 16 := BitVec.ofBool p ++ BitVec.ofBool m ++ 0#1 ++ regs

/-- The numbers of a register list in ascending order. -/
def regNumbers (regs : BitVec 16) : List RegNum :=
  ((List.range 16).filter regs.getLsbD).map (BitVec.ofNat 4)

/-- An extension-register list (42_stack.md rule R203): D registers or S registers, the first number, how many, and
`imm32 = 4 * imm8`. -/
structure ExtList where
  isDouble : Bool
  first : Nat
  count : Nat
  bytes : Word
  deriving DecidableEq, Repr

/-- The D list of a VPUSH or VPOP word: `d = D:Vd`, `regs = imm8 / 2` (R203). -/
def extListD (dbit : BitVec 1) (vd : BitVec 4) (imm8 : BitVec 8) : ExtList :=
  { isDouble := true, first := (dbit ++ vd).toNat, count := imm8.toNat / 2, bytes := 4 * imm8.setWidth 32 }

/-- The S list of a VPUSH or VPOP word: `d = Vd:D`, `regs = imm8` (R203). -/
def extListS (dbit : BitVec 1) (vd : BitVec 4) (imm8 : BitVec 8) : ExtList :=
  { isDouble := false, first := (vd ++ dbit).toNat, count := imm8.toNat, bytes := 4 * imm8.setWidth 32 }

/-- The UNPREDICTABLE tests on a D list (R203): an odd `imm8`, no register, more than 16, or past D31. -/
def extListDBad (imm8 : BitVec 8) (l : ExtList) : Bool :=
  imm8.getLsbD 0 || l.count == 0 || decide (16 < l.count) || decide (32 < l.first + l.count)

/-- The UNPREDICTABLE tests on an S list (R203): no register, or past S31. -/
def extListSBad (l : ExtList) : Bool := l.count == 0 || decide (32 < l.first + l.count)

/-- The register numbers of an extension list, ascending. -/
def ExtList.numbers (l : ExtList) : List (BitVec 5) :=
  (List.range l.count).map fun k => BitVec.ofNat 5 (l.first + k)

/-- The port register `S[n]` or `D[n]` of a list. -/
def ExtList.reg (l : ExtList) (n : BitVec 5) : PortReg := if l.isDouble then .extDouble n else .extSingle n

/-- The bytes one register of the list takes (20_memory.md rule R68). -/
def ExtList.size (l : ExtList) : Nat := if l.isDouble then 8 else 4

/-! ## Multi-register addresses (R330) -/

/-- The addressing variants of LDM and STM (R330). -/
inductive Variant where
  | ia | ib | da | db
  deriving DecidableEq, Repr

/-- The first address of a transfer of `c` registers, as an offset from the base (R330). -/
def Variant.firstOffset (v : Variant) (c : Nat) : Word :=
  match v with
  | .ia => 0
  | .ib => 4
  | .da => 4 - BitVec.ofNat 32 (4 * c)
  | .db => 0 - BitVec.ofNat 32 (4 * c)

/-- The new base of a transfer of `c` registers, as a change of the base (R330). -/
def Variant.baseChange (v : Variant) (c : Nat) : Word :=
  match v with
  | .ia | .ib => BitVec.ofNat 32 (4 * c)
  | .da | .db => 0 - BitVec.ofNat 32 (4 * c)

/-! ## Branch offsets -/

/-- B A1, BL A1: `sext(imm24:00, 26)` (R305, R306). -/
def offsetA (imm24 : BitVec 24) : Word := (imm24 ++ 0#2).signExtend 32

/-- BLX A2: `sext(imm24:H:0, 26)` (R307). -/
def offsetABlx (imm24 : BitVec 24) (h : BitVec 1) : Word := (imm24 ++ h ++ 0#1).signExtend 32

/-- B T1: `sext(imm8:0, 9)` (R305). -/
def offsetT1 (imm8 : BitVec 8) : Word := (imm8 ++ 0#1).signExtend 32

/-- B T2: `sext(imm11:0, 12)` (R305). -/
def offsetT2 (imm11 : BitVec 11) : Word := (imm11 ++ 0#1).signExtend 32

/-- B T3: `sext(S:J2:J1:imm6:imm11:0, 21)` (R305). -/
def offsetT3 (sgn : BitVec 1) (imm6 : BitVec 6) (j1 j2 : BitVec 1) (imm11 : BitVec 11) : Word :=
  (sgn ++ j2 ++ j1 ++ imm6 ++ imm11 ++ 0#1).signExtend 32

/-- B T4, BL T1: `I1 = NOT(J1 EOR S)`, `I2 = NOT(J2 EOR S)`, `sext(S:I1:I2:imm10:imm11:0, 25)` (R305, R306). -/
def offsetT4 (sgn : BitVec 1) (imm10 : BitVec 10) (j1 j2 : BitVec 1) (imm11 : BitVec 11) : Word :=
  (sgn ++ ~~~(j1 ^^^ sgn) ++ ~~~(j2 ^^^ sgn) ++ imm10 ++ imm11 ++ 0#1).signExtend 32

/-- BLX T2: `sext(S:I1:I2:imm10H:imm10L:00, 25)` (R307). -/
def offsetTBlx (sgn : BitVec 1) (imm10h : BitVec 10) (j1 j2 : BitVec 1) (imm10l : BitVec 10) : Word :=
  (sgn ++ ~~~(j1 ^^^ sgn) ++ ~~~(j2 ^^^ sgn) ++ imm10h ++ imm10l ++ 0#2).signExtend 32

/-- CBZ, CBNZ: `zext(i:imm5:0)` (R310). -/
def offsetCb (i1 : BitVec 1) (imm5 : BitVec 5) : Word := (i1 ++ imm5 ++ 0#1).setWidth 32

/-! ## The IT session (R171, R173) -/

/-- `InitIT(byte)` (R171): the session it starts, `none` where it fails. -/
def initIT (byte : BitVec 8) : Option ITSession :=
  let trailing := trailingZeros (byte.extractLsb' 0 4)
  let firstcond := byte.extractLsb' 4 4
  let size := 4 - trailing
  if 3 < trailing then none
  else if firstcond = 15 then none
  else if firstcond = 14 ∧ size ≠ 1 then none
  else some { state := byte, remaining := size }

/-- `ITAdvance()` (R173). -/
def itAdvance (it : ITSession) : ITSession :=
  let remaining := it.remaining - 1
  if remaining = 0 then { state := 0, remaining := 0 }
  else { state := it.state &&& 0xe0 ||| it.state <<< 1 &&& 0x1f, remaining := remaining }

end Sys2Proof.Machine
end

