-- ==== Sys2Proof/Machine/Ops.lean ====
section
/-! DEFINITION. The named operations of the machine: memory (10_state.md rule R36, 20_memory.md rules R62, R64), the four
port operations (R60), reads and writes of a handler, failure (60_exceptions.md rule R400), the PC-write policies
(46_branch.md rules R300 to R304), flag and result writes (40_primitives.md rules R161, R162), and the common templates of
the instruction rules (R201 to R204, R221, R280, R306 to R313, R330, R350, R380).

A handler (R387) is a program over State that ends normally or raises a failure; on a failure the writes already accepted
stay (R61). -/

namespace Sys2Proof.Machine

/-! ## Memory (R36, R394) -/

/-- The byte at an address; `none` where nothing is mapped. -/
def Memory.read? : Memory → Nat → Option Byte
  | [], _ => none
  | (k, b) :: rest, a => if k = a then some b else Memory.read? rest a

/-- Memory with the byte at an address replaced or newly mapped; the order of the cells is kept. -/
def Memory.write : Memory → Nat → Byte → Memory
  | [], a, b => [(a, b)]
  | (k, v) :: rest, a, b =>
    if a < k then (a, b) :: (k, v) :: rest
    else if a = k then (a, b) :: rest
    else (k, v) :: Memory.write rest a b

/-- Memory with an address unmapped. -/
def Memory.erase (m : Memory) (a : Nat) : Memory := m.filter fun c => c.1 ≠ a

/-- The canonical form: addresses strictly rising, all below 2^32. Every listed byte differs from what an unlisted address
reads as, which is no byte at all. -/
abbrev Memory.wf (m : Memory) : Prop :=
  m.Pairwise (fun x y => x.1 < y.1) ∧ ∀ c ∈ m, c.1 < 2 ^ 32

/-- The addresses of `n` bytes from `a` on, modulo 2^32 (R62, R394). -/
def byteAddrs (a : Word) (n : Nat) : List Word := (List.range n).map fun k => a + BitVec.ofNat 32 k

/-- The little-endian value of `n` bytes at `a` (R62, R64); `none` where a byte is not mapped (R394). -/
def Memory.readLE (m : Memory) (a : Word) : Nat → Option DWord
  | 0 => some 0
  | n + 1 =>
    match Memory.read? m a.toNat, Memory.readLE m (a + 1) n with
    | some b, some rest => some (rest <<< 8 ||| b.setWidth 64)
    | _, _ => none

/-- Memory after the low `8n` bits of a value are stored little-endian at `a` (R62, R64, R394). -/
def Memory.writeLE (m : Memory) (a : Word) (v : DWord) : Nat → Memory
  | 0 => m
  | n + 1 => Memory.writeLE (Memory.write m a.toNat (v.setWidth 8)) (a + 1) (v >>> 8) n

/-- The low `8n` bits of a value (R62). -/
def lowBytes (v : DWord) (n : Nat) : DWord := v &&& ((1#64 <<< (8 * n)) - 1)

/-! ## The host's registers (R33, R34, R35) -/

/-- Core register `n` as the host holds it. -/
def State.getCore (s : State) (n : RegNum) : Word := s.core[n.toNat]'n.isLt

/-- Doubleword extension register `n` as the host holds it. -/
def State.getExt (s : State) (n : BitVec 5) : DWord := s.ext[n.toNat]'n.isLt

/-- The host's core register `n` replaced. -/
def State.setCore (s : State) (n : RegNum) (v : Word) : State := { s with core := s.core.set n.toNat v n.isLt }

/-- The host's doubleword extension register `n` replaced. -/
def State.setExt (s : State) (n : BitVec 5) (v : DWord) : State := { s with ext := s.ext.set n.toNat v n.isLt }

/-- The half of a doubleword that a singleword register is: `S[2i]` bits 31:0, `S[2i+1]` bits 63:32 (R34). -/
def extHalf (d : DWord) (odd : Bool) : Word := if odd then d.extractLsb' 32 32 else d.extractLsb' 0 32

/-- A doubleword with one half replaced (R34). -/
def extWithHalf (d : DWord) (odd : Bool) (v : Word) : DWord :=
  if odd then v ++ d.extractLsb' 0 32 else d.extractLsb' 32 32 ++ v

/-- The value of a port register, zero-extended to 64 bits (R34, R35). -/
def State.regValue (s : State) : PortReg → DWord
  | .core n => (s.getCore n).setWidth 64
  | .status => s.status.setWidth 64
  | .extSingle n => (extHalf (s.getExt (n >>> 1)) (n.getLsbD 0)).setWidth 64
  | .extDouble n => s.getExt n

/-- A port register replaced by a value, cut to its width (R34, R35). -/
def State.setReg (s : State) (r : PortReg) (v : DWord) : State :=
  match r with
  | .core n => s.setCore n (v.setWidth 32)
  | .status => { s with status := v.setWidth 32 }
  | .extSingle n => s.setExt (n >>> 1) (extWithHalf (s.getExt (n >>> 1)) (n.getLsbD 0) (v.setWidth 32))
  | .extDouble n => s.setExt n v

/-- The host refuses this target (log 5). -/
def State.refuses (s : State) (t : PortTarget) : Bool := decide (t ∈ s.refusals)

/-! ## The port (R60) -/

/-- A port call added to the trace (R78). -/
def State.note (s : State) (c : PortCall) : State := { s with trace := c :: s.trace }

/-- `readRegister(kind, number, default)` with default 0 (R60, R35). -/
def portReadRegister (r : PortReg) (s : State) : (DWord × Bool) × State :=
  let ok := !s.refuses (.readReg r)
  let v := if ok then s.regValue r else 0
  ((v, ok), s.note (.readRegister r 0 v ok))

/-- `writeRegister(context, kind, number, value)` (R60). It sets `PC_WRITTEN` when the target is core register 15 (R28,
log 15). -/
def portWriteRegister (ctx : Context) (r : PortReg) (v : DWord) (s : State) : Bool × State :=
  let ok := !s.refuses (.writeReg r)
  let s1 := { s with pcWritten := s.pcWritten || r == PortReg.core 15 }
  let s2 := if ok then s1.setReg r v else s1
  (ok, s2.note (.writeRegister ctx r v ok))

/-- The host serves a read of `n` bytes at `a`: it refuses none of them and all are mapped (R394, log 5). -/
def State.readable (s : State) (a : Word) (n : Nat) : Bool :=
  !(byteAddrs a n).any (fun x => s.refuses (.readMem x)) && (Memory.readLE s.mem a n).isSome

/-- The host serves a write of `n` bytes at `a`: it refuses none of them (R394, log 5). -/
def State.writable (s : State) (a : Word) (n : Nat) : Bool :=
  !(byteAddrs a n).any (fun x => s.refuses (.writeMem x))

/-- `readMemory(context, address, size)` (R60). -/
def portReadMemory (ctx : Context) (a : Word) (n : Nat) (s : State) : (DWord × Bool) × State :=
  let ok := s.readable a n
  let v := if ok then (Memory.readLE s.mem a n).getD 0 else 0
  ((v, ok), s.note (.readMemory ctx a n v ok))

/-- `writeMemory(context, address, size, value)` (R60). -/
def portWriteMemory (ctx : Context) (a : Word) (n : Nat) (v : DWord) (s : State) : Bool × State :=
  let ok := s.writable a n
  let s1 := if ok then { s with mem := Memory.writeLE s.mem a v n } else s
  (ok, s1.note (.writeMemory ctx a n (lowBytes v n) ok))

/-! ## Handlers and failure (R387, R400) -/

/-- A handler: it ends normally, or raises a failure and leaves the state as it stood (R387, R61). -/
abbrev Handler := EStateM Failure State

/-- `raise F` as the command reports it (R400): `FAULT` is the class; every accepted write stays, nothing is saved and the
control flow of the emulated program is not changed. The one way a failure is taken. -/
def State.raise (f : Failure) (s : State) : State := { s with fault := some f }

/-- The success of a command (R400, R23). -/
def State.succeed (s : State) : State := { s with fault := none }

/-- The answer of a meaning. -/
abbrev Answer := Host.Outcome State Fault Refusal

/-- A handler run as a whole: a failure is a next state with `FAULT` set (R400, log 7). -/
def runHandler (h : Handler Unit) (s : State) : Answer :=
  match h s with
  | .ok _ t => .next t.succeed
  | .error f t => .next (t.raise f)

/-- A port write in a handler: `ok = false` raises `AccessFailure` (R61, R403). -/
def callWrite (f : State → Bool × State) : Handler Unit := fun s =>
  match f s with
  | (true, t) => .ok () t
  | (false, t) => .error .accessFailure t

/-- A port read in a handler: `ok = false` raises `AccessFailure` (R61, R403). -/
def callRead (f : State → (DWord × Bool) × State) : Handler DWord := fun s =>
  match f s with
  | ((v, true), t) => .ok v t
  | ((_, false), t) => .error .accessFailure t

/-- UNPREDICTABLE or UNDEFINED where a test holds (R402). -/
def unpredictableIf (b : Bool) : Handler Unit := if b then throw .unpredictableOperands else pure ()

/-- NOT_IN_SUBSET where a test holds (R401). -/
def notInSubsetIf (b : Bool) : Handler Unit := if b then throw .unsupportedEncoding else pure ()

/-- `UnknownBits32()` (R79): a fresh draw. -/
def drawUnknown : Handler Word := fun s => .ok (Config.unknownBits32 s.draws) { s with draws := s.draws + 1 }

/-! ## Reads and writes of a handler (R8) -/

/-- The PC read value `R[15]`: the fetch address plus 8 in ARM, plus 4 in Thumb (10_state.md rule R29). -/
def State.pcValue (s : State) : Word :=
  match s.inst.mode with
  | .arm => s.inst.addr + 8
  | .thumb => s.inst.addr + 4

/-- The PC read value in a handler; no port call (R29). -/
def readPC : Handler Word := fun s => .ok s.pcValue s

/-- `R[n]` (R8). -/
def readReg (n : RegNum) : Handler Word :=
  if n = 15 then readPC
  else do
    let v ← callRead (portReadRegister (.core n))
    return v.setWidth 32

/-- `R[n] <- v` for n of 0 to 14, and the port write `pc <- v` for n = 15 (R8). -/
def writeReg (ctx : Context) (n : RegNum) (v : Word) : Handler Unit :=
  callWrite (portWriteRegister ctx (.core n) (v.setWidth 64))

/-- A write of the status register. -/
def writeStatus (ctx : Context) (v : Word) : Handler Unit :=
  callWrite (portWriteRegister ctx .status (v.setWidth 64))

/-- `MemRead(addr, n)` (R62). -/
def memRead (ctx : Context) (a : Word) (n : Nat) : Handler DWord := callRead (portReadMemory ctx a n)

/-- `MemWrite(addr, n, v)` (R62). -/
def memWrite (ctx : Context) (a : Word) (n : Nat) (v : DWord) : Handler Unit := callWrite (portWriteMemory ctx a n v)

/-- The carry flag of `CPSR_in` (R31). -/
def carryIn : Handler Bool := fun s => .ok (flagC s.inst.cpsr) s

/-- `InITBlock()` (41_condition_it.md rule R176). -/
def State.inITBlock (s : State) : Bool := s.inst.mode == .thumb && s.it.remaining != 0

/-- `LastInITBlock()` (R176). -/
def State.lastInITBlock (s : State) : Bool := s.inst.mode == .thumb && s.it.remaining == 1

/-- `InITBlock()` in a handler. -/
def inIT : Handler Bool := fun s => .ok s.inITBlock s

/-- `InITBlock() and not LastInITBlock()` in a handler. -/
def inITNotLast : Handler Bool := fun s => .ok (s.inITBlock && !s.lastInITBlock) s

/-- `ArchVersion()` in a handler (R25). -/
def archVersion : Handler Nat := fun s => .ok s.arch.version s

/-- UNPREDICTABLE inside an IT block (R179). -/
def unpredictableInIT : Handler Unit := do unpredictableIf (← inIT)

/-- UNPREDICTABLE inside an IT block unless the instruction is its last (R179). -/
def unpredictableInITNotLast : Handler Unit := do unpredictableIf (← inITNotLast)

/-! ## PC-write policies (R300 to R304) -/

/-- The value of `MODE` for an instruction set. -/
def modeOf : InstrSet → Mode
  | .arm => .arm
  | .thumb => .thumb

/-- An address with the low bits cleared for the mode (R300): two in ARM, one otherwise. -/
def maskPC (mode : Mode) (a : Word) : Word :=
  if mode = .arm then a &&& 0xfffffffc else a &&& 0xfffffffe

/-- `BranchWritePC(ctx, addr)` (R300). -/
def branchWritePC (ctx : Context) (a : Word) : Handler Unit := do
  let s ← get
  writeReg ctx 15 (maskPC s.mode a)

/-- `SelectInstrSet(set)` (R304): nothing where the set does not change. -/
def selectInstrSet (set : InstrSet) : Handler Unit := do
  let s ← get
  if s.mode = modeOf set then pure ()
  else
    let out := setBit s.cpsrOut 5 (set == .thumb)
    modify fun t => { t with cpsrOut := out }
    writeStatus (.modeChange set) out
    modify fun t => { t with mode := modeOf set }

/-- `BXWritePC(ctx, addr)` (R301). -/
def bxWritePC (ctx : Context) (a : Word) : Handler Unit := do
  if a.getLsbD 0 then
    selectInstrSet .thumb
    writeReg ctx 15 (a &&& 0xfffffffe)
  else
    selectInstrSet .arm
    writeReg ctx 15 (a &&& 0xfffffffc)

/-- `LoadWritePC(ctx, addr)` (R302). -/
def loadWritePC (ctx : Context) (a : Word) : Handler Unit := do
  let v ← archVersion
  if 5 ≤ v then bxWritePC ctx a else branchWritePC ctx a

/-- `ALUWritePC(ctx, addr)` (R303). -/
def aluWritePC (ctx : Context) (a : Word) : Handler Unit := do
  let s ← get
  if 7 ≤ s.arch.version ∧ s.mode = .arm then bxWritePC ctx a else branchWritePC ctx a

/-! ## Flag and result writes (R161, R162) -/

/-- `WriteFlags(result, carry, overflow)` (R161). -/
def writeFlags (result : Word) (carry overflow : Option Bool) : Handler Unit := do
  let s ← get
  let out := packFlags s.cpsrOut result carry overflow
  modify fun t => { t with cpsrOut := out }
  writeStatus .immediate out

/-- `WriteCoreRegOptionalFlags(ctx, result, d, setflags, carry, overflow)` (R162). -/
def writeCoreRegOptionalFlags (ctx : Context) (result : Word) (d : RegNum) (setflags : Bool)
    (carry overflow : Option Bool) : Handler Unit :=
  if d = 15 then aluWritePC ctx result
  else do
    writeReg ctx d result
    if setflags then writeFlags result carry overflow

/-! ## Data processing (43_dp_arith.md rules R220, R221; 44_dp_logic.md) -/

/-- The operations of the data-processing family. -/
inductive AluOp where
  | adc | add | sub | rsb | rsc | and | orr | eor | mvn
  deriving DecidableEq, Repr

/-- What step 4 of rule R221 gives: result, carry and overflow, where `none` is KEEP (R160). -/
structure AluResult where
  result : Word
  carry : Option Bool
  overflow : Option Bool
  deriving DecidableEq, Repr

/-- An adder result with both flags real (R160). -/
def AluResult.ofAdd (r : AddResult) : AluResult := { result := r.result, carry := some r.carry, overflow := some r.overflow }

/-- A logical result: the operand's carry, the overflow kept (R160). -/
def AluResult.ofLogic (r : Word) (shc : Bool) : AluResult := { result := r, carry := some shc, overflow := none }

/-- Step 4 of rule R221: the operation on the first operand `x`, the second operand and its carry `shc`, with `C` of
`CPSR_in` (R222 to R237, R250 to R261, R142). MVN has no first operand. -/
def AluOp.eval (op : AluOp) (x op2 : Word) (c shc : Bool) : AluResult :=
  match op with
  | .adc => .ofAdd (addWithCarry x op2 c)
  | .add => .ofAdd (addWithCarry x op2 false)
  | .sub => .ofAdd (addWithCarry x (~~~op2) true)
  | .rsb => .ofAdd (addWithCarry (~~~x) op2 true)
  | .rsc => .ofAdd (addWithCarry (~~~x) op2 c)
  | .and => .ofLogic (x &&& op2) shc
  | .orr => .ofLogic (x ||| op2) shc
  | .eor => .ofLogic (x ^^^ op2) shc
  | .mvn => .ofLogic (~~~op2) shc

/-- A second operand (R220): an immediate with its carry, or a register with a shift. -/
inductive Operand2 where
  | imm (v : Word) (carry : Bool)
  | reg (m : RegNum) (ty : SRType) (amount : Nat)
  deriving DecidableEq, Repr

/-- The immediate form of a second operand. -/
def Operand2.isImm : Operand2 → Bool
  | .imm .. => true
  | .reg .. => false

/-- Step 2 of rule R221: the second operand's value and carry; a register form reads `R[m]`. -/
def Operand2.value : Operand2 → Handler (Word × Bool)
  | .imm v c => return (v, c)
  | .reg m ty amount => do
    let x ← readReg m
    let c ← carryIn
    return shiftC x ty amount c

/-- `imm12` of an ARM word (R220, formats A_dp_imm, A_cmp_imm, A_mvn_imm). -/
def armImm (imm12 : BitVec 12) : Handler Operand2 := do
  let c ← carryIn
  let r := armExpandImmC imm12 c
  return .imm r.1 r.2

/-- `i:imm3:imm8` of a T32_modimm word (R220); UNPREDICTABLE as rule R106 says. -/
def thumbImm (i1 : BitVec 1) (imm3 : BitVec 3) (imm8 : BitVec 8) : Handler Operand2 := do
  let c ← carryIn
  match thumbExpandImmC (i1 ++ imm3 ++ imm8) c with
  | some r => return .imm r.1 r.2
  | none => throw .unpredictableOperands

/-- An immediate without an expansion carry: `xc = C` (R220). -/
def plainImm (v : Word) : Handler Operand2 := do
  let c ← carryIn
  return .imm v c

/-- `m = Rm` with `DecodeImmShift(type, imm5)` (R220). -/
def shiftedReg (m : RegNum) (ty : BitVec 2) (imm5 : BitVec 5) : Operand2 :=
  .reg m (decodeImmShift ty imm5).1 (decodeImmShift ty imm5).2

/-- `m = Rm` with `(LSL, 0)` (R220). -/
def plainReg (m : RegNum) : Operand2 := .reg m .lsl 0

/-- Step 5 of rule R221: the context of the result write (log 12). -/
def resultContext (d : RegNum) (n : Option RegNum) (isImm : Bool) (change : Word) : Context :=
  if n = some 13 then
    if d = 13 then .adjustStackPointer change
    else if isImm then .registerPlusOffset change
    else .immediate
  else .immediate

/-- Step 3 of rule R221: the first operand, zero where the instruction has none. -/
def firstOperand : Option RegNum → Handler Word
  | none => return 0
  | some n => readReg n

/-- The execute template of rule R221 for an instruction with a destination. -/
def dataProc (op : AluOp) (d : RegNum) (n : Option RegNum) (op2 : Operand2) (setflags : Bool) : Handler Unit := do
  let second ← op2.value
  let x ← firstOperand n
  let c ← carryIn
  let r := op.eval x second.1 c second.2
  writeCoreRegOptionalFlags (resultContext d n op2.isImm (r.result - x)) r.result d setflags r.carry r.overflow

/-- The execute template of rule R221 for a compare-class instruction (R163). -/
def compare (op : AluOp) (n : RegNum) (op2 : Operand2) : Handler Unit := do
  let second ← op2.value
  let x ← readReg n
  let c ← carryIn
  let r := op.eval x second.1 c second.2
  writeFlags r.result r.carry r.overflow

/-- `setflags` of the 16-bit Thumb formats: `not InITBlock()` (R220, R280). -/
def flagsOutsideIT : Handler Bool := do
  let b ← inIT
  return !b

/-! ## Shifts (45_shift_rotate.md rule R280) -/

/-- The immediate forms (R280, R289). -/
def shiftImm (d m : RegNum) (ty : SRType) (amount : Nat) (setflags : Bool) : Handler Unit := do
  let x ← readReg m
  let c ← carryIn
  let r := shiftC x ty amount c
  writeCoreRegOptionalFlags .immediate r.1 d setflags (some r.2) none

/-- The register-controlled forms (R280, R108): `R[m]` is read first, then `R[n]`. -/
def shiftReg (d n m : RegNum) (ty : SRType) (setflags : Bool) : Handler Unit := do
  let y ← readReg m
  let x ← readReg n
  let c ← carryIn
  let r := shiftC x ty (y &&& 0xff).toNat c
  writeCoreRegOptionalFlags .immediate r.1 d setflags (some r.2) none

/-! ## Branches (46_branch.md) -/

/-- B (R305). -/
def branchTo (offset : Word) : Handler Unit := do
  let pc ← readPC
  branchWritePC .branch (pc + offset)

/-- The address of the next instruction that BL and BLX (immediate) put into LR (R306, R307). -/
def State.linkAfter32 (s : State) : Word :=
  match s.inst.mode with
  | .arm => s.pcValue - 4
  | .thumb => s.pcValue ||| 1

/-- The address of the next instruction that BLX (register) and SVC put into LR (R308, R380). -/
def State.linkAfter16 (s : State) : Word :=
  match s.inst.mode with
  | .arm => s.pcValue - 4
  | .thumb => (s.pcValue - 2) ||| 1

/-- BL (immediate) (R306). -/
def branchLink (offset : Word) : Handler Unit := do
  let s ← get
  writeReg .branch 14 s.linkAfter32
  branchWritePC .branch (s.pcValue + offset)

/-- BLX (immediate) (R307). -/
def branchLinkExchange (offset : Word) : Handler Unit := do
  let s ← get
  writeReg .branch 14 s.linkAfter32
  match s.inst.mode with
  | .arm =>
    selectInstrSet .thumb
    branchWritePC .branch (s.pcValue + offset)
  | .thumb =>
    selectInstrSet .arm
    branchWritePC .branch (align4 s.pcValue + offset)

/-- BLX (register) (R308): `R[m]` is read before LR is written. -/
def branchLinkExchangeReg (m : RegNum) : Handler Unit := do
  let target ← readReg m
  let s ← get
  writeReg .branch 14 s.linkAfter16
  bxWritePC .branch target

/-- BX (R309). -/
def branchExchange (m : RegNum) : Handler Unit := do
  let target ← readReg m
  bxWritePC .branch target

/-- CBZ and CBNZ (R310, R311): the branch is taken where the register is zero (`nonzero` false) or is not. -/
def compareBranch (n : RegNum) (nonzero : Bool) (offset : Word) : Handler Unit := do
  let x ← readReg n
  if (x != 0) = nonzero then branchTo offset

/-- TBB and TBH (R312, R313): `size` bytes at `R[n] + LSL(R[m], log2 size)`. -/
def tableBranch (n m : RegNum) (size : Nat) (scale : Nat) : Handler Unit := do
  let base ← readReg n
  let index ← readReg m
  let halfwords ← memRead .tableBranch (base + index <<< scale) size
  let pc ← readPC
  branchWritePC .tableBranch (pc + 2 * halfwords.setWidth 32)

/-- SVC (R380). -/
def supervisorCall (imm32 : Word) : Handler Unit := do
  let s ← get
  writeReg (.supervisorCall imm32) 14 s.linkAfter16

/-! ## Multi-register transfers (R201, R202, R330) -/

/-- The store loop (R201, R330): each register is read immediately before its store, the base register or SP too where it
stands in the list, although it was read at the start (DEDUCED, log 23); `unknown` says whose word is UNKNOWN; `offset` is the
offset of the address from the base. -/
def storeLoop (ctx : RegNum → Word → Context) (unknown : RegNum → Bool) (base : Word) : List RegNum → Word → Handler Unit
  | [], _ => pure ()
  | i :: rest, offset => do
    if unknown i then
      let v ← drawUnknown
      memWrite .unknownValue (base + offset) 4 (v.setWidth 64)
    else
      let v ← readReg i
      memWrite (ctx i offset) (base + offset) 4 (v.setWidth 64)
    storeLoop ctx unknown base rest (offset + 4)

/-- The load loop (R202, R330): `skip` says which loaded word is not written; the PC goes through `LoadWritePC`. -/
def loadLoop (ctx : RegNum → Word → Context) (skip : RegNum → Bool) (base : Word) : List RegNum → Word → Handler Unit
  | [], _ => pure ()
  | i :: rest, offset => do
    let data ← memRead (ctx i offset) (base + offset) 4
    if i = 15 then loadWritePC (ctx i offset) (data.setWidth 32)
    else if skip i then pure ()
    else writeReg (ctx i offset) i (data.setWidth 32)
    loadLoop ctx skip base rest (offset + 4)

/-- PUSH of a register list (R201). -/
def push (regs : BitVec 16) : Handler Unit := do
  let sp ← readReg 13
  let down := 0 - BitVec.ofNat 32 (4 * bitCount regs)
  storeLoop (fun i off => .stackPush (.core i) off) (fun i => i == 13 && i.toNat != lowestSetBit regs) sp
    (regNumbers regs) down
  writeReg (.adjustStackPointer down) 13 (sp + down)

/-- POP of a register list (R202). -/
def pop (regs : BitVec 16) : Handler Unit := do
  let sp ← readReg 13
  let up := BitVec.ofNat 32 (4 * bitCount regs)
  loadLoop (fun i off => .stackPop (.core i) off) (fun i => i == 13) sp (regNumbers regs) 0
  if regs.getLsbD 13 then
    let v ← drawUnknown
    writeReg .unknownValue 13 v
  else writeReg (.adjustStackPointer up) 13 (sp + up)

/-- The load loop of rule R330 with its writeback. -/
def loadMultiple (v : Variant) (n : RegNum) (regs : BitVec 16) (wback : Bool) : Handler Unit := do
  let base ← readReg n
  let change := v.baseChange (bitCount regs)
  loadLoop (fun i off => .registerLoad i n off) (fun i => wback && i == n) base (regNumbers regs)
    (v.firstOffset (bitCount regs))
  if wback then
    if regs.getLsbD n.toNat then
      let x ← drawUnknown
      writeReg .unknownValue n x
    else writeReg (.adjustBaseRegister n change) n (base + change)

/-- The store loop of rule R330 with its writeback. -/
def storeMultiple (v : Variant) (n : RegNum) (regs : BitVec 16) (wback : Bool) : Handler Unit := do
  let base ← readReg n
  let change := v.baseChange (bitCount regs)
  storeLoop (fun i off => .registerStore i n off) (fun i => i == n && wback && i.toNat != lowestSetBit regs) base
    (regNumbers regs) (v.firstOffset (bitCount regs))
  if wback then writeReg (.adjustBaseRegister n change) n (base + change)

/-! ## Extension-register transfers (R203, R204) -/

/-- The store loop of rule R203. -/
def extStoreLoop (l : ExtList) (base : Word) : List (BitVec 5) → Word → Handler Unit
  | [], _ => pure ()
  | i :: rest, offset => do
    let v ← callRead (portReadRegister (l.reg i))
    memWrite (.stackPush (l.reg i) offset) (base + offset) l.size v
    extStoreLoop l base rest (offset + BitVec.ofNat 32 l.size)

/-- The load loop of rule R204. -/
def extLoadLoop (l : ExtList) (base : Word) : List (BitVec 5) → Word → Handler Unit
  | [], _ => pure ()
  | i :: rest, offset => do
    let v ← memRead (.stackPop (l.reg i) offset) (base + offset) l.size
    callWrite (portWriteRegister (.stackPop (l.reg i) offset) (l.reg i) v)
    extLoadLoop l base rest (offset + BitVec.ofNat 32 l.size)

/-- VPUSH (R203). -/
def vpush (l : ExtList) : Handler Unit := do
  let sp ← readReg 13
  extStoreLoop l sp l.numbers (0 - l.bytes)
  writeReg (.adjustStackPointer (0 - l.bytes)) 13 (sp - l.bytes)

/-- VPOP (R204). -/
def vpop (l : ExtList) : Handler Unit := do
  let sp ← readReg 13
  extLoadLoop l sp l.numbers 0
  writeReg (.adjustStackPointer l.bytes) 13 (sp + l.bytes)

/-! ## Single loads and stores (48_load_store_single.md rule R350) -/

/-- The base of an address: a register, or `Align(R[15], 4)` of a literal form (R350, R67). -/
inductive AddrBase where
  | reg (n : RegNum)
  | literal
  deriving DecidableEq, Repr

/-- The base register's number; 15 for a literal form (R350). -/
def AddrBase.num : AddrBase → RegNum
  | .reg n => n
  | .literal => 15

/-- The base value (R350). -/
def AddrBase.value : AddrBase → Handler Word
  | .reg n => readReg n
  | .literal => do
    let pc ← readPC
    return align4 pc

/-- The offset of an address: an immediate, or a register with a shift (R350). -/
inductive AddrOffset where
  | imm (v : Word)
  | reg (m : RegNum) (ty : SRType) (amount : Nat)
  deriving DecidableEq, Repr

/-- The offset value; a register form reads `R[m]` (R350, R152). -/
def AddrOffset.value : AddrOffset → Handler Word
  | .imm v => return v
  | .reg m ty amount => do
    let x ← readReg m
    let c ← carryIn
    return shift x ty amount c

/-- An addressing form: base, offset and the three flags of rule R350. -/
structure AddrForm where
  base : AddrBase
  offset : AddrOffset
  index : Bool
  add : Bool
  wback : Bool
  deriving DecidableEq, Repr

/-- `offset_addr` (R350). -/
def AddrForm.offsetAddr (f : AddrForm) (base offset : Word) : Word := if f.add then base + offset else base - offset

/-- `address` (R350). -/
def AddrForm.address (f : AddrForm) (base offset : Word) : Word := if f.index then f.offsetAddr base offset else base

/-- A register offset with `DecodeImmShift(type, imm5)` (R350, format A_ls_reg). -/
def shiftedOffset (m : RegNum) (ty : BitVec 2) (imm5 : BitVec 5) : AddrOffset :=
  .reg m (decodeImmShift ty imm5).1 (decodeImmShift ty imm5).2

/-- The writeback of rule R350. -/
def writebackBase (f : AddrForm) (base offset : Word) : Handler Unit :=
  if f.wback then
    writeReg (.adjustBaseRegister f.base.num (f.offsetAddr base offset - base)) f.base.num (f.offsetAddr base offset)
  else pure ()

/-- A load of rule R350: 4 bytes for LDR, 1 for LDRB. The payload's offset is that of the address from the base, so 0 where
the load is post-indexed (DEDUCED, log 24). -/
def loadSingle (t : RegNum) (size : Nat) (f : AddrForm) : Handler Unit := do
  let base ← f.base.value
  let offset ← f.offset.value
  let address := f.address base offset
  let ctx := Context.registerLoad t f.base.num (address - base)
  unpredictableIf (t == 15 && address.extractLsb' 0 2 != 0)
  let data ← memRead ctx address size
  writebackBase f base offset
  if t = 15 then loadWritePC ctx (data.setWidth 32) else writeReg ctx t (data.setWidth 32)

/-- A store of rule R350: the low bytes of `R[t]`, 4 for STR, 1 for STRB. -/
def storeSingle (t : RegNum) (size : Nat) (f : AddrForm) : Handler Unit := do
  let base ← f.base.value
  let offset ← f.offset.value
  let address := f.address base offset
  let v ← readReg t
  memWrite (.registerStore t f.base.num (address - base)) address size (v.setWidth 64)
  writebackBase f base offset

/-! ## IT (41_condition_it.md rule R180) -/

/-- A new IT session. -/
def setIT (x : ITSession) : Handler Unit := modify fun s => { s with it := x }

end Sys2Proof.Machine
end

