-- ==== Sys2Proof/Machine/Branch.lean ====
section
/-! DEFINITION. The branch instructions (46_branch.md rules R305 to R313). One definition per decode-table row;
the tests of a rule stand before its first port call, those of NOT_IN_SUBSET first (60_exceptions.md rule R405). -/

namespace Sys2Proof.Machine

/-- BLX (immediate), encoding A2 (R307). -/
def execBlxImmA2 (h : BitVec 1) (imm24 : BitVec 24) (s : State) : Answer :=
  runHandler (branchLinkExchange (offsetABlx imm24 h)) s

/-- B, encoding A1 (R305). -/
def execBA1 (imm24 : BitVec 24) (s : State) : Answer :=
  runHandler (branchTo (offsetA imm24)) s

/-- BL (immediate), encoding A1 (R306). -/
def execBlImmA1 (imm24 : BitVec 24) (s : State) : Answer :=
  runHandler (branchLink (offsetA imm24)) s

/-- BLX (register), encoding A1 (R308). -/
def execBlxRegA1 (rm : BitVec 4) (s : State) : Answer :=
  runHandler (do
    unpredictableIf (rm == 15)
    branchLinkExchangeReg rm) s

/-- BX, encoding A1 (R309). -/
def execBxA1 (rm : BitVec 4) (s : State) : Answer :=
  runHandler (branchExchange rm) s

/-- B, encoding T1 (R305). -/
def execBT1 (cond : BitVec 4) (imm8 : BitVec 8) (s : State) : Answer :=
  runHandler (do
    unpredictableIf (cond == 14)
    unpredictableInIT
    branchTo (offsetT1 imm8)) s

/-- B, encoding T2 (R305). -/
def execBT2 (imm11 : BitVec 11) (s : State) : Answer :=
  runHandler (do
    unpredictableInITNotLast
    branchTo (offsetT2 imm11)) s

/-- BLX (register), encoding T1 (R308). -/
def execBlxRegT1 (rm : BitVec 4) (s : State) : Answer :=
  runHandler (do
    unpredictableIf (rm == 15)
    unpredictableInITNotLast
    branchLinkExchangeReg rm) s

/-- BX, encoding T1 (R309). -/
def execBxT1 (rm : BitVec 4) (s : State) : Answer :=
  runHandler (do
    unpredictableInITNotLast
    branchExchange rm) s

/-- CBZ, encoding T1 (R310). -/
def execCbzT1 (i1 : BitVec 1) (imm5 : BitVec 5) (rn : BitVec 3) (s : State) : Answer :=
  runHandler (do
    unpredictableInIT
    compareBranch (lowReg rn) false (offsetCb i1 imm5)) s

/-- CBNZ, encoding T1 (R311). -/
def execCbnzT1 (i1 : BitVec 1) (imm5 : BitVec 5) (rn : BitVec 3) (s : State) : Answer :=
  runHandler (do
    unpredictableInIT
    compareBranch (lowReg rn) true (offsetCb i1 imm5)) s

/-- B, encoding T3 (R305). -/
def execBT3 (sgn : BitVec 1) (cond : BitVec 4) (imm6 : BitVec 6) (j1 j2 : BitVec 1) (imm11 : BitVec 11) (s : State) : Answer :=
  runHandler (do
    notInSubsetIf (cond.extractLsb' 1 3 == 7)
    unpredictableInIT
    branchTo (offsetT3 sgn imm6 j1 j2 imm11)) s

/-- B, encoding T4 (R305). -/
def execBT4 (sgn : BitVec 1) (imm10 : BitVec 10) (j1 j2 : BitVec 1) (imm11 : BitVec 11) (s : State) : Answer :=
  runHandler (do
    unpredictableInITNotLast
    branchTo (offsetT4 sgn imm10 j1 j2 imm11)) s

/-- BLX (immediate), encoding T2 (R307). -/
def execBlxImmT2 (sgn : BitVec 1) (imm10h : BitVec 10) (j1 j2 : BitVec 1) (imm10l : BitVec 10) (h : BitVec 1) (s : State) : Answer :=
  runHandler (do
    unpredictableIf (h == 1)
    unpredictableInITNotLast
    branchLinkExchange (offsetTBlx sgn imm10h j1 j2 imm10l)) s

/-- BL (immediate), encoding T1 (R306). -/
def execBlImmT1 (sgn : BitVec 1) (imm10 : BitVec 10) (j1 j2 : BitVec 1) (imm11 : BitVec 11) (s : State) : Answer :=
  runHandler (do
    unpredictableInITNotLast
    branchLink (offsetT4 sgn imm10 j1 j2 imm11)) s

/-- TBB, encoding T1 (R312). -/
def execTbbT1 (rn rm : BitVec 4) (s : State) : Answer :=
  runHandler (do
    unpredictableIf (rn == 13 || badReg rm)
    unpredictableInITNotLast
    tableBranch rn rm 1 0) s

/-- TBH, encoding T1 (R313). -/
def execTbhT1 (rn rm : BitVec 4) (s : State) : Answer :=
  runHandler (do
    unpredictableIf (rn == 13 || badReg rm)
    unpredictableInITNotLast
    tableBranch rn rm 2 1) s

end Sys2Proof.Machine
end

