-- ==== Sys2Proof/Machine/DpArith.lean ====
section
/-! DEFINITION. The arithmetic data-processing instructions (43_dp_arith.md rules R220 to R237). One definition per decode-table row;
the tests of a rule stand before its first port call, those of NOT_IN_SUBSET first (60_exceptions.md rule R405). -/

namespace Sys2Proof.Machine

/-- ADC (immediate), encoding A1 (R222). -/
def execAdcImmA1 (setS : Bool) (rn rd : BitVec 4) (imm12 : BitVec 12) (s : State) : Answer :=
  runHandler (do
    let op2 ← armImm imm12
    dataProc .adc rd (some rn) op2 setS) s

/-- ADC (register), encoding A1 (R223). -/
def execAdcRegA1 (setS : Bool) (rn rd : BitVec 4) (imm5 : BitVec 5) (ty : BitVec 2) (rm : BitVec 4) (s : State) : Answer :=
  runHandler (dataProc .adc rd (some rn) (shiftedReg rm ty imm5) setS) s

/-- ADD (immediate), encoding A1 (R224). -/
def execAddImmA1 (setS : Bool) (rn rd : BitVec 4) (imm12 : BitVec 12) (s : State) : Answer :=
  runHandler (do
    let op2 ← armImm imm12
    dataProc .add rd (some rn) op2 setS) s

/-- ADD (register), encoding A1 (R225). -/
def execAddRegA1 (setS : Bool) (rn rd : BitVec 4) (imm5 : BitVec 5) (ty : BitVec 2) (rm : BitVec 4) (s : State) : Answer :=
  runHandler (dataProc .add rd (some rn) (shiftedReg rm ty imm5) setS) s

/-- RSB (immediate), encoding A1 (R230). -/
def execRsbImmA1 (setS : Bool) (rn rd : BitVec 4) (imm12 : BitVec 12) (s : State) : Answer :=
  runHandler (do
    let op2 ← armImm imm12
    dataProc .rsb rd (some rn) op2 setS) s

/-- RSB (register), encoding A1 (R231). -/
def execRsbRegA1 (setS : Bool) (rn rd : BitVec 4) (imm5 : BitVec 5) (ty : BitVec 2) (rm : BitVec 4) (s : State) : Answer :=
  runHandler (dataProc .rsb rd (some rn) (shiftedReg rm ty imm5) setS) s

/-- RSC (immediate), encoding A1 (R232). -/
def execRscImmA1 (setS : Bool) (rn rd : BitVec 4) (imm12 : BitVec 12) (s : State) : Answer :=
  runHandler (do
    let op2 ← armImm imm12
    dataProc .rsc rd (some rn) op2 setS) s

/-- RSC (register), encoding A1 (R233). -/
def execRscRegA1 (setS : Bool) (rn rd : BitVec 4) (imm5 : BitVec 5) (ty : BitVec 2) (rm : BitVec 4) (s : State) : Answer :=
  runHandler (dataProc .rsc rd (some rn) (shiftedReg rm ty imm5) setS) s

/-- SUB (immediate), encoding A1 (R227). -/
def execSubImmA1 (setS : Bool) (rn rd : BitVec 4) (imm12 : BitVec 12) (s : State) : Answer :=
  runHandler (do
    let op2 ← armImm imm12
    dataProc .sub rd (some rn) op2 setS) s

/-- SUB (register), encoding A1 (R228). -/
def execSubRegA1 (setS : Bool) (rn rd : BitVec 4) (imm5 : BitVec 5) (ty : BitVec 2) (rm : BitVec 4) (s : State) : Answer :=
  runHandler (dataProc .sub rd (some rn) (shiftedReg rm ty imm5) setS) s

/-- CMN (immediate), encoding A1 (R236). -/
def execCmnImmA1 (rn : BitVec 4) (imm12 : BitVec 12) (s : State) : Answer :=
  runHandler (do
    let op2 ← armImm imm12
    compare .add rn op2) s

/-- CMN (register), encoding A1 (R237). -/
def execCmnRegA1 (rn : BitVec 4) (imm5 : BitVec 5) (ty : BitVec 2) (rm : BitVec 4) (s : State) : Answer :=
  runHandler (compare .add rn (shiftedReg rm ty imm5)) s

/-- CMP (immediate), encoding A1 (R234). -/
def execCmpImmA1 (rn : BitVec 4) (imm12 : BitVec 12) (s : State) : Answer :=
  runHandler (do
    let op2 ← armImm imm12
    compare .sub rn op2) s

/-- CMP (register), encoding A1 (R235). -/
def execCmpRegA1 (rn : BitVec 4) (imm5 : BitVec 5) (ty : BitVec 2) (rm : BitVec 4) (s : State) : Answer :=
  runHandler (compare .sub rn (shiftedReg rm ty imm5)) s

/-- ADD (SP plus immediate), encoding T1 (R226). -/
def execAddSpImmT1 (rd : BitVec 3) (imm8 : BitVec 8) (s : State) : Answer :=
  runHandler (do
    let op2 ← plainImm (imm8.setWidth 32 * 4)
    dataProc .add (lowReg rd) (some 13) op2 false) s

/-- ADD (SP plus immediate), encoding T2 (R226). -/
def execAddSpImmT2 (imm7 : BitVec 7) (s : State) : Answer :=
  runHandler (do
    let op2 ← plainImm (imm7.setWidth 32 * 4)
    dataProc .add 13 (some 13) op2 false) s

/-- SUB (SP minus immediate), encoding T1 (R229). -/
def execSubSpImmT1 (imm7 : BitVec 7) (s : State) : Answer :=
  runHandler (do
    let op2 ← plainImm (imm7.setWidth 32 * 4)
    dataProc .sub 13 (some 13) op2 false) s

/-- ADC (register), encoding T1 (R223). -/
def execAdcRegT1 (rm rdn : BitVec 3) (s : State) : Answer :=
  runHandler (do
    let f ← flagsOutsideIT
    dataProc .adc (lowReg rdn) (some (lowReg rdn)) (plainReg (lowReg rm)) f) s

/-- ADD (immediate), encoding T1 (R224). -/
def execAddImmT1 (imm3 rn rd : BitVec 3) (s : State) : Answer :=
  runHandler (do
    let op2 ← plainImm (imm3.setWidth 32)
    let f ← flagsOutsideIT
    dataProc .add (lowReg rd) (some (lowReg rn)) op2 f) s

/-- ADD (immediate), encoding T2 (R224). -/
def execAddImmT2 (rdn : BitVec 3) (imm8 : BitVec 8) (s : State) : Answer :=
  runHandler (do
    let op2 ← plainImm (imm8.setWidth 32)
    let f ← flagsOutsideIT
    dataProc .add (lowReg rdn) (some (lowReg rdn)) op2 f) s

/-- ADD (register), encoding T1 (R225). -/
def execAddRegT1 (rm rn rd : BitVec 3) (s : State) : Answer :=
  runHandler (do
    let f ← flagsOutsideIT
    dataProc .add (lowReg rd) (some (lowReg rn)) (plainReg (lowReg rm)) f) s

/-- ADD (register), encoding T2 (R225). -/
def execAddRegT2 (dn : BitVec 1) (rm : BitVec 4) (rdn : BitVec 3) (s : State) : Answer :=
  runHandler (do
    let notLast ← inITNotLast
    unpredictableIf (splitReg dn rdn == 15 && rm == 15 || splitReg dn rdn == 15 && notLast)
    dataProc .add (splitReg dn rdn) (some (splitReg dn rdn)) (plainReg rm) false) s

/-- RSB (immediate), encoding T1 (R230). -/
def execRsbImmT1 (rn rd : BitVec 3) (s : State) : Answer :=
  runHandler (do
    let op2 ← plainImm 0
    let f ← flagsOutsideIT
    dataProc .rsb (lowReg rd) (some (lowReg rn)) op2 f) s

/-- SUB (immediate), encoding T1 (R227). -/
def execSubImmT1 (imm3 rn rd : BitVec 3) (s : State) : Answer :=
  runHandler (do
    let op2 ← plainImm (imm3.setWidth 32)
    let f ← flagsOutsideIT
    dataProc .sub (lowReg rd) (some (lowReg rn)) op2 f) s

/-- SUB (immediate), encoding T2 (R227). -/
def execSubImmT2 (rdn : BitVec 3) (imm8 : BitVec 8) (s : State) : Answer :=
  runHandler (do
    let op2 ← plainImm (imm8.setWidth 32)
    let f ← flagsOutsideIT
    dataProc .sub (lowReg rdn) (some (lowReg rdn)) op2 f) s

/-- SUB (register), encoding T1 (R228). -/
def execSubRegT1 (rm rn rd : BitVec 3) (s : State) : Answer :=
  runHandler (do
    let f ← flagsOutsideIT
    dataProc .sub (lowReg rd) (some (lowReg rn)) (plainReg (lowReg rm)) f) s

/-- CMP (immediate), encoding T1 (R234). -/
def execCmpImmT1 (rn : BitVec 3) (imm8 : BitVec 8) (s : State) : Answer :=
  runHandler (do
    let op2 ← plainImm (imm8.setWidth 32)
    compare .sub (lowReg rn) op2) s

/-- CMP (register), encoding T1 (R235). -/
def execCmpRegT1 (rm rn : BitVec 3) (s : State) : Answer :=
  runHandler (compare .sub (lowReg rn) (plainReg (lowReg rm))) s

/-- CMP (register), encoding T2 (R235). -/
def execCmpRegT2 (nbit : BitVec 1) (rm : BitVec 4) (rn : BitVec 3) (s : State) : Answer :=
  runHandler (do
    unpredictableIf (decide ((splitReg nbit rn).toNat < 8) && decide (rm.toNat < 8) || splitReg nbit rn == 15 || rm == 15)
    compare .sub (splitReg nbit rn) (plainReg rm)) s

/-- CMN (register), encoding T1 (R237). -/
def execCmnRegT1 (rm rn : BitVec 3) (s : State) : Answer :=
  runHandler (compare .add (lowReg rn) (plainReg (lowReg rm))) s

/-- CMN (immediate), encoding T1 (R236). -/
def execCmnImmT1 (i1 : BitVec 1) (rn : BitVec 4) (imm3 : BitVec 3) (imm8 : BitVec 8) (s : State) : Answer :=
  runHandler (do
    unpredictableIf (rn == 15)
    let op2 ← thumbImm i1 imm3 imm8
    compare .add rn op2) s

/-- CMP (immediate), encoding T2 (R234). -/
def execCmpImmT2 (i1 : BitVec 1) (rn : BitVec 4) (imm3 : BitVec 3) (imm8 : BitVec 8) (s : State) : Answer :=
  runHandler (do
    unpredictableIf (rn == 15)
    let op2 ← thumbImm i1 imm3 imm8
    compare .sub rn op2) s

/-- CMN (register), encoding T2 (R237). -/
def execCmnRegT2 (rn : BitVec 4) (imm3 : BitVec 3) (imm2 ty : BitVec 2) (rm : BitVec 4) (s : State) : Answer :=
  runHandler (do
    unpredictableIf (rn == 15 || badReg rm)
    compare .add rn (shiftedReg rm ty (imm3 ++ imm2))) s

/-- CMP (register), encoding T3 (R235). -/
def execCmpRegT3 (rn : BitVec 4) (imm3 : BitVec 3) (imm2 ty : BitVec 2) (rm : BitVec 4) (s : State) : Answer :=
  runHandler (do
    unpredictableIf (rn == 15 || badReg rm)
    compare .sub rn (shiftedReg rm ty (imm3 ++ imm2))) s

/-- ADC (immediate), encoding T1 (R222). -/
def execAdcImmT1 (i1 : BitVec 1) (setS : Bool) (rn : BitVec 4) (imm3 : BitVec 3) (rd : BitVec 4) (imm8 : BitVec 8) (s : State) : Answer :=
  runHandler (do
    unpredictableIf (badReg rd || badReg rn)
    let op2 ← thumbImm i1 imm3 imm8
    dataProc .adc rd (some rn) op2 setS) s

/-- ADC (register), encoding T2 (R223). -/
def execAdcRegT2 (setS : Bool) (rn : BitVec 4) (imm3 : BitVec 3) (rd : BitVec 4) (imm2 ty : BitVec 2) (rm : BitVec 4) (s : State) : Answer :=
  runHandler (do
    unpredictableIf (badReg rd || badReg rn || badReg rm)
    dataProc .adc rd (some rn) (shiftedReg rm ty (imm3 ++ imm2)) setS) s

/-- ADD (immediate), encoding T3 (R224). -/
def execAddImmT3 (i1 : BitVec 1) (setS : Bool) (rn : BitVec 4) (imm3 : BitVec 3) (rd : BitVec 4) (imm8 : BitVec 8) (s : State) : Answer :=
  runHandler (do
    unpredictableIf (if rn == 13 then rd == 15 else rd == 13 || rd == 15 || rn == 15)
    let op2 ← thumbImm i1 imm3 imm8
    dataProc .add rd (some rn) op2 setS) s

/-- ADD (immediate), encoding T4 (R224). -/
def execAddImmT4 (i1 : BitVec 1) (rn : BitVec 4) (imm3 : BitVec 3) (rd : BitVec 4) (imm8 : BitVec 8) (s : State) : Answer :=
  runHandler (do
    notInSubsetIf (rn == 15)
    unpredictableIf (if rn == 13 then rd == 15 else badReg rd)
    let op2 ← plainImm ((i1 ++ imm3 ++ imm8).setWidth 32)
    dataProc .add rd (some rn) op2 false) s

/-- ADD (register), encoding T3 (R225). -/
def execAddRegT3 (setS : Bool) (rn : BitVec 4) (imm3 : BitVec 3) (rd : BitVec 4) (imm2 ty : BitVec 2) (rm : BitVec 4) (s : State) : Answer :=
  runHandler (do
    unpredictableIf (if rn == 13 then
        rd == 13 && ((decodeImmShift ty (imm3 ++ imm2)).1 != .lsl || decide (3 < (decodeImmShift ty (imm3 ++ imm2)).2))
          || rd == 15 || badReg rm
      else rd == 13 || rd == 15 || rn == 15 || badReg rm)
    dataProc .add rd (some rn) (shiftedReg rm ty (imm3 ++ imm2)) setS) s

/-- RSB (immediate), encoding T2 (R230). -/
def execRsbImmT2 (i1 : BitVec 1) (setS : Bool) (rn : BitVec 4) (imm3 : BitVec 3) (rd : BitVec 4) (imm8 : BitVec 8) (s : State) : Answer :=
  runHandler (do
    unpredictableIf (badReg rd || badReg rn)
    let op2 ← thumbImm i1 imm3 imm8
    dataProc .rsb rd (some rn) op2 setS) s

/-- RSB (register), encoding T1 (R231). -/
def execRsbRegT1 (setS : Bool) (rn : BitVec 4) (imm3 : BitVec 3) (rd : BitVec 4) (imm2 ty : BitVec 2) (rm : BitVec 4) (s : State) : Answer :=
  runHandler (do
    unpredictableIf (badReg rd || badReg rn || badReg rm)
    dataProc .rsb rd (some rn) (shiftedReg rm ty (imm3 ++ imm2)) setS) s

/-- SUB (immediate), encoding T3 (R227). -/
def execSubImmT3 (i1 : BitVec 1) (setS : Bool) (rn : BitVec 4) (imm3 : BitVec 3) (rd : BitVec 4) (imm8 : BitVec 8) (s : State) : Answer :=
  runHandler (do
    unpredictableIf (if rn == 13 then rd == 15 else rd == 13 || rd == 15 || rn == 15)
    let op2 ← thumbImm i1 imm3 imm8
    dataProc .sub rd (some rn) op2 setS) s

/-- SUB (immediate), encoding T4 (R227). -/
def execSubImmT4 (i1 : BitVec 1) (rn : BitVec 4) (imm3 : BitVec 3) (rd : BitVec 4) (imm8 : BitVec 8) (s : State) : Answer :=
  runHandler (do
    notInSubsetIf (rn == 15)
    unpredictableIf (if rn == 13 then rd == 15 else badReg rd)
    let op2 ← plainImm ((i1 ++ imm3 ++ imm8).setWidth 32)
    dataProc .sub rd (some rn) op2 false) s

/-- SUB (register), encoding T2 (R228). -/
def execSubRegT2 (setS : Bool) (rn : BitVec 4) (imm3 : BitVec 3) (rd : BitVec 4) (imm2 ty : BitVec 2) (rm : BitVec 4) (s : State) : Answer :=
  runHandler (do
    unpredictableIf (if rn == 13 then
        rd == 13 && ((decodeImmShift ty (imm3 ++ imm2)).1 != .lsl || decide (3 < (decodeImmShift ty (imm3 ++ imm2)).2))
          || rd == 15 || badReg rm
      else rd == 13 || rd == 15 || rn == 15 || badReg rm)
    dataProc .sub rd (some rn) (shiftedReg rm ty (imm3 ++ imm2)) setS) s

end Sys2Proof.Machine
end

