-- ==== Sys2Proof/Machine/DpLogic.lean ====
section
/-! DEFINITION. The logical data-processing instructions (44_dp_logic.md rules R250 to R261). One definition per decode-table row;
the tests of a rule stand before its first port call, those of NOT_IN_SUBSET first (60_exceptions.md rule R405). -/

namespace Sys2Proof.Machine

/-- AND (immediate), encoding A1 (R250). -/
def execAndImmA1 (setS : Bool) (rn rd : BitVec 4) (imm12 : BitVec 12) (s : State) : Answer :=
  runHandler (do
    let op2 ← armImm imm12
    dataProc .and rd (some rn) op2 setS) s

/-- AND (register), encoding A1 (R251). -/
def execAndRegA1 (setS : Bool) (rn rd : BitVec 4) (imm5 : BitVec 5) (ty : BitVec 2) (rm : BitVec 4) (s : State) : Answer :=
  runHandler (dataProc .and rd (some rn) (shiftedReg rm ty imm5) setS) s

/-- EOR (immediate), encoding A1 (R254). -/
def execEorImmA1 (setS : Bool) (rn rd : BitVec 4) (imm12 : BitVec 12) (s : State) : Answer :=
  runHandler (do
    let op2 ← armImm imm12
    dataProc .eor rd (some rn) op2 setS) s

/-- EOR (register), encoding A1 (R255). -/
def execEorRegA1 (setS : Bool) (rn rd : BitVec 4) (imm5 : BitVec 5) (ty : BitVec 2) (rm : BitVec 4) (s : State) : Answer :=
  runHandler (dataProc .eor rd (some rn) (shiftedReg rm ty imm5) setS) s

/-- ORR (immediate), encoding A1 (R252). -/
def execOrrImmA1 (setS : Bool) (rn rd : BitVec 4) (imm12 : BitVec 12) (s : State) : Answer :=
  runHandler (do
    let op2 ← armImm imm12
    dataProc .orr rd (some rn) op2 setS) s

/-- ORR (register), encoding A1 (R253). -/
def execOrrRegA1 (setS : Bool) (rn rd : BitVec 4) (imm5 : BitVec 5) (ty : BitVec 2) (rm : BitVec 4) (s : State) : Answer :=
  runHandler (dataProc .orr rd (some rn) (shiftedReg rm ty imm5) setS) s

/-- TEQ (immediate), encoding A1 (R260). -/
def execTeqImmA1 (rn : BitVec 4) (imm12 : BitVec 12) (s : State) : Answer :=
  runHandler (do
    let op2 ← armImm imm12
    compare .eor rn op2) s

/-- TEQ (register), encoding A1 (R261). -/
def execTeqRegA1 (rn : BitVec 4) (imm5 : BitVec 5) (ty : BitVec 2) (rm : BitVec 4) (s : State) : Answer :=
  runHandler (compare .eor rn (shiftedReg rm ty imm5)) s

/-- TST (immediate), encoding A1 (R258). -/
def execTstImmA1 (rn : BitVec 4) (imm12 : BitVec 12) (s : State) : Answer :=
  runHandler (do
    let op2 ← armImm imm12
    compare .and rn op2) s

/-- TST (register), encoding A1 (R259). -/
def execTstRegA1 (rn : BitVec 4) (imm5 : BitVec 5) (ty : BitVec 2) (rm : BitVec 4) (s : State) : Answer :=
  runHandler (compare .and rn (shiftedReg rm ty imm5)) s

/-- MVN (immediate), encoding A1 (R256). -/
def execMvnImmA1 (setS : Bool) (rd : BitVec 4) (imm12 : BitVec 12) (s : State) : Answer :=
  runHandler (do
    let op2 ← armImm imm12
    dataProc .mvn rd none op2 setS) s

/-- MVN (register), encoding A1 (R257). -/
def execMvnRegA1 (setS : Bool) (rd : BitVec 4) (imm5 : BitVec 5) (ty : BitVec 2) (rm : BitVec 4) (s : State) : Answer :=
  runHandler (dataProc .mvn rd none (shiftedReg rm ty imm5) setS) s

/-- AND (register), encoding T1 (R251). -/
def execAndRegT1 (rm rdn : BitVec 3) (s : State) : Answer :=
  runHandler (do
    let f ← flagsOutsideIT
    dataProc .and (lowReg rdn) (some (lowReg rdn)) (plainReg (lowReg rm)) f) s

/-- EOR (register), encoding T1 (R255). -/
def execEorRegT1 (rm rdn : BitVec 3) (s : State) : Answer :=
  runHandler (do
    let f ← flagsOutsideIT
    dataProc .eor (lowReg rdn) (some (lowReg rdn)) (plainReg (lowReg rm)) f) s

/-- ORR (register), encoding T1 (R253). -/
def execOrrRegT1 (rm rdn : BitVec 3) (s : State) : Answer :=
  runHandler (do
    let f ← flagsOutsideIT
    dataProc .orr (lowReg rdn) (some (lowReg rdn)) (plainReg (lowReg rm)) f) s

/-- MVN (register), encoding T1 (R257). -/
def execMvnRegT1 (rm rd : BitVec 3) (s : State) : Answer :=
  runHandler (do
    let f ← flagsOutsideIT
    dataProc .mvn (lowReg rd) none (plainReg (lowReg rm)) f) s

/-- TST (register), encoding T1 (R259). -/
def execTstRegT1 (rm rn : BitVec 3) (s : State) : Answer :=
  runHandler (compare .and (lowReg rn) (plainReg (lowReg rm))) s

/-- TST (immediate), encoding T1 (R258). -/
def execTstImmT1 (i1 : BitVec 1) (rn : BitVec 4) (imm3 : BitVec 3) (imm8 : BitVec 8) (s : State) : Answer :=
  runHandler (do
    unpredictableIf (badReg rn)
    let op2 ← thumbImm i1 imm3 imm8
    compare .and rn op2) s

/-- TEQ (immediate), encoding T1 (R260). -/
def execTeqImmT1 (i1 : BitVec 1) (rn : BitVec 4) (imm3 : BitVec 3) (imm8 : BitVec 8) (s : State) : Answer :=
  runHandler (do
    unpredictableIf (badReg rn)
    let op2 ← thumbImm i1 imm3 imm8
    compare .eor rn op2) s

/-- TST (register), encoding T2 (R259). -/
def execTstRegT2 (rn : BitVec 4) (imm3 : BitVec 3) (imm2 ty : BitVec 2) (rm : BitVec 4) (s : State) : Answer :=
  runHandler (do
    unpredictableIf (badReg rn || badReg rm)
    compare .and rn (shiftedReg rm ty (imm3 ++ imm2))) s

/-- TEQ (register), encoding T1 (R261). -/
def execTeqRegT1 (rn : BitVec 4) (imm3 : BitVec 3) (imm2 ty : BitVec 2) (rm : BitVec 4) (s : State) : Answer :=
  runHandler (do
    unpredictableIf (badReg rn || badReg rm)
    compare .eor rn (shiftedReg rm ty (imm3 ++ imm2))) s

/-- AND (immediate), encoding T1 (R250). -/
def execAndImmT1 (i1 : BitVec 1) (setS : Bool) (rn : BitVec 4) (imm3 : BitVec 3) (rd : BitVec 4) (imm8 : BitVec 8) (s : State) : Answer :=
  runHandler (do
    unpredictableIf (rd == 13 || rd == 15 || badReg rn)
    let op2 ← thumbImm i1 imm3 imm8
    dataProc .and rd (some rn) op2 setS) s

/-- AND (register), encoding T2 (R251). -/
def execAndRegT2 (setS : Bool) (rn : BitVec 4) (imm3 : BitVec 3) (rd : BitVec 4) (imm2 ty : BitVec 2) (rm : BitVec 4) (s : State) : Answer :=
  runHandler (do
    unpredictableIf (rd == 13 || rd == 15 || badReg rn || badReg rm)
    dataProc .and rd (some rn) (shiftedReg rm ty (imm3 ++ imm2)) setS) s

/-- EOR (immediate), encoding T1 (R254). -/
def execEorImmT1 (i1 : BitVec 1) (setS : Bool) (rn : BitVec 4) (imm3 : BitVec 3) (rd : BitVec 4) (imm8 : BitVec 8) (s : State) : Answer :=
  runHandler (do
    unpredictableIf (rd == 13 || rd == 15 || badReg rn)
    let op2 ← thumbImm i1 imm3 imm8
    dataProc .eor rd (some rn) op2 setS) s

/-- EOR (register), encoding T2 (R255). -/
def execEorRegT2 (setS : Bool) (rn : BitVec 4) (imm3 : BitVec 3) (rd : BitVec 4) (imm2 ty : BitVec 2) (rm : BitVec 4) (s : State) : Answer :=
  runHandler (do
    unpredictableIf (rd == 13 || rd == 15 || badReg rn || badReg rm)
    dataProc .eor rd (some rn) (shiftedReg rm ty (imm3 ++ imm2)) setS) s

/-- MVN (immediate), encoding T1 (R256). -/
def execMvnImmT1 (i1 : BitVec 1) (setS : Bool) (imm3 : BitVec 3) (rd : BitVec 4) (imm8 : BitVec 8) (s : State) : Answer :=
  runHandler (do
    unpredictableIf (badReg rd)
    let op2 ← thumbImm i1 imm3 imm8
    dataProc .mvn rd none op2 setS) s

/-- MVN (register), encoding T2 (R257). -/
def execMvnRegT2 (setS : Bool) (imm3 : BitVec 3) (rd : BitVec 4) (imm2 ty : BitVec 2) (rm : BitVec 4) (s : State) : Answer :=
  runHandler (do
    unpredictableIf (badReg rd || badReg rm)
    dataProc .mvn rd none (shiftedReg rm ty (imm3 ++ imm2)) setS) s

/-- ORR (immediate), encoding T1 (R252). -/
def execOrrImmT1 (i1 : BitVec 1) (setS : Bool) (rn : BitVec 4) (imm3 : BitVec 3) (rd : BitVec 4) (imm8 : BitVec 8) (s : State) : Answer :=
  runHandler (do
    notInSubsetIf (rn == 15)
    unpredictableIf (badReg rd || rn == 13)
    let op2 ← thumbImm i1 imm3 imm8
    dataProc .orr rd (some rn) op2 setS) s

/-- ORR (register), encoding T2 (R253). -/
def execOrrRegT2 (setS : Bool) (rn : BitVec 4) (imm3 : BitVec 3) (rd : BitVec 4) (imm2 ty : BitVec 2) (rm : BitVec 4) (s : State) : Answer :=
  runHandler (do
    notInSubsetIf (rn == 15)
    unpredictableIf (badReg rd || rn == 13 || badReg rm)
    dataProc .orr rd (some rn) (shiftedReg rm ty (imm3 ++ imm2)) setS) s

end Sys2Proof.Machine
end

