-- ==== Sys2Proof/Machine/LoadStoreMultiple.lean ====
section
/-! DEFINITION. Load and store multiple (47_load_store_multiple.md rules R330 to R338). One definition per decode-table row;
the tests of a rule stand before its first port call, those of NOT_IN_SUBSET first (60_exceptions.md rule R405). -/

namespace Sys2Proof.Machine

/-- LDM, encoding A1 (R331). -/
def execLdmA1 (w : Bool) (rn : BitVec 4) (regs : BitVec 16) (s : State) : Answer :=
  runHandler (do
    let version ← archVersion
    unpredictableIf (rn == 15 || bitCount regs == 0 || w && regs.getLsbD rn.toNat && decide (7 ≤ version))
    loadMultiple .ia rn regs w) s

/-- LDMDA, encoding A1 (R332). -/
def execLdmdaA1 (w : Bool) (rn : BitVec 4) (regs : BitVec 16) (s : State) : Answer :=
  runHandler (do
    let version ← archVersion
    unpredictableIf (rn == 15 || bitCount regs == 0 || w && regs.getLsbD rn.toNat && decide (7 ≤ version))
    loadMultiple .da rn regs w) s

/-- LDMDB, encoding A1 (R333). -/
def execLdmdbA1 (w : Bool) (rn : BitVec 4) (regs : BitVec 16) (s : State) : Answer :=
  runHandler (do
    let version ← archVersion
    unpredictableIf (rn == 15 || bitCount regs == 0 || w && regs.getLsbD rn.toNat && decide (7 ≤ version))
    loadMultiple .db rn regs w) s

/-- LDMIB, encoding A1 (R334). -/
def execLdmibA1 (w : Bool) (rn : BitVec 4) (regs : BitVec 16) (s : State) : Answer :=
  runHandler (do
    let version ← archVersion
    unpredictableIf (rn == 15 || bitCount regs == 0 || w && regs.getLsbD rn.toNat && decide (7 ≤ version))
    loadMultiple .ib rn regs w) s

/-- STM, encoding A1 (R335). -/
def execStmA1 (w : Bool) (rn : BitVec 4) (regs : BitVec 16) (s : State) : Answer :=
  runHandler (do
    unpredictableIf (rn == 15 || bitCount regs == 0)
    storeMultiple .ia rn regs w) s

/-- STMDA, encoding A1 (R336). -/
def execStmdaA1 (w : Bool) (rn : BitVec 4) (regs : BitVec 16) (s : State) : Answer :=
  runHandler (do
    unpredictableIf (rn == 15 || bitCount regs == 0)
    storeMultiple .da rn regs w) s

/-- STMDB, encoding A1 (R337). -/
def execStmdbA1 (w : Bool) (rn : BitVec 4) (regs : BitVec 16) (s : State) : Answer :=
  runHandler (do
    unpredictableIf (rn == 15 || bitCount regs == 0)
    storeMultiple .db rn regs w) s

/-- STMIB, encoding A1 (R338). -/
def execStmibA1 (w : Bool) (rn : BitVec 4) (regs : BitVec 16) (s : State) : Answer :=
  runHandler (do
    unpredictableIf (rn == 15 || bitCount regs == 0)
    storeMultiple .ib rn regs w) s

/-- LDM, encoding T1 (R331). -/
def execLdmT1 (rn : BitVec 3) (regs : BitVec 8) (s : State) : Answer :=
  runHandler (do
    unpredictableIf (bitCount (list8 regs) == 0)
    loadMultiple .ia (lowReg rn) (list8 regs) (!(list8 regs).getLsbD (lowReg rn).toNat)) s

/-- STM, encoding T1 (R335). -/
def execStmT1 (rn : BitVec 3) (regs : BitVec 8) (s : State) : Answer :=
  runHandler (do
    unpredictableIf (bitCount (list8 regs) == 0)
    storeMultiple .ia (lowReg rn) (list8 regs) true) s

/-- LDM, encoding T2 (R331). -/
def execLdmT2 (w : Bool) (rn : BitVec 4) (p m : Bool) (regs : BitVec 13) (s : State) : Answer :=
  runHandler (do
    let notLast ← inITNotLast
    unpredictableIf (rn == 15 || decide (bitCount (listPM13 p m regs) < 2) || p && m || p && notLast
      || w && (listPM13 p m regs).getLsbD rn.toNat)
    loadMultiple .ia rn (listPM13 p m regs) w) s

/-- LDMDB, encoding T1 (R333). -/
def execLdmdbT1 (w : Bool) (rn : BitVec 4) (p m : Bool) (regs : BitVec 13) (s : State) : Answer :=
  runHandler (do
    let notLast ← inITNotLast
    unpredictableIf (rn == 15 || decide (bitCount (listPM13 p m regs) < 2) || p && m || p && notLast
      || w && (listPM13 p m regs).getLsbD rn.toNat)
    loadMultiple .db rn (listPM13 p m regs) w) s

/-- STM, encoding T2 (R335). -/
def execStmT2 (w : Bool) (rn : BitVec 4) (m : Bool) (regs : BitVec 13) (s : State) : Answer :=
  runHandler (do
    unpredictableIf (rn == 15 || decide (bitCount (listM13 m regs) < 2) || w && (listM13 m regs).getLsbD rn.toNat)
    storeMultiple .ia rn (listM13 m regs) w) s

/-- STMDB, encoding T1 (R337). -/
def execStmdbT1 (w : Bool) (rn : BitVec 4) (m : Bool) (regs : BitVec 13) (s : State) : Answer :=
  runHandler (do
    unpredictableIf (rn == 15 || decide (bitCount (listM13 m regs) < 2) || w && (listM13 m regs).getLsbD rn.toNat)
    storeMultiple .db rn (listM13 m regs) w) s

end Sys2Proof.Machine
end

