-- ==== Sys2Proof/Machine/LoadStoreSingle.lean ====
section
/-! DEFINITION. Single loads and stores (48_load_store_single.md rules R350 to R360). One definition per decode-table row;
the tests of a rule stand before its first port call, those of NOT_IN_SUBSET first (60_exceptions.md rule R405). -/

namespace Sys2Proof.Machine

/-- LDR (literal), encoding A1 (R352). -/
def execLdrLitA1 (u : Bool) (rt : BitVec 4) (imm12 : BitVec 12) (s : State) : Answer :=
  runHandler (do
    loadSingle rt 4
      { base := .literal, offset := .imm (imm12.setWidth 32), index := true, add := u, wback := false }) s

/-- LDR (immediate), encoding A1 (R351). -/
def execLdrImmA1 (p u w : Bool) (rn rt : BitVec 4) (imm12 : BitVec 12) (s : State) : Answer :=
  runHandler (do
    notInSubsetIf (!p && w)
    unpredictableIf (rn == 15 || (!p || w) && rn == rt)
    loadSingle rt 4
      { base := .reg rn, offset := .imm (imm12.setWidth 32), index := p, add := u, wback := !p || w }) s

/-- LDR (register), encoding A1 (R353). -/
def execLdrRegA1 (p u w : Bool) (rn rt : BitVec 4) (imm5 : BitVec 5) (ty : BitVec 2) (rm : BitVec 4) (s : State) : Answer :=
  runHandler (do
    notInSubsetIf (!p && w)
    unpredictableIf (rm == 15 || (!p || w) && (rn == 15 || rn == rt))
    loadSingle rt 4
      { base := .reg rn, offset := shiftedOffset rm ty imm5, index := p, add := u, wback := !p || w }) s

/-- LDRB (literal), encoding A1 (R357). -/
def execLdrbLitA1 (u : Bool) (rt : BitVec 4) (imm12 : BitVec 12) (s : State) : Answer :=
  runHandler (do
    unpredictableIf (rt == 15)
    loadSingle rt 1
      { base := .literal, offset := .imm (imm12.setWidth 32), index := true, add := u, wback := false }) s

/-- LDRB (immediate), encoding A1 (R356). -/
def execLdrbImmA1 (p u w : Bool) (rn rt : BitVec 4) (imm12 : BitVec 12) (s : State) : Answer :=
  runHandler (do
    notInSubsetIf (!p && w)
    unpredictableIf (rn == 15 || (!p || w) && rn == rt || rt == 15)
    loadSingle rt 1
      { base := .reg rn, offset := .imm (imm12.setWidth 32), index := p, add := u, wback := !p || w }) s

/-- LDRB (register), encoding A1 (R358). -/
def execLdrbRegA1 (p u w : Bool) (rn rt : BitVec 4) (imm5 : BitVec 5) (ty : BitVec 2) (rm : BitVec 4) (s : State) : Answer :=
  runHandler (do
    notInSubsetIf (!p && w)
    unpredictableIf (rm == 15 || rt == 15 || (!p || w) && (rn == 15 || rn == rt))
    loadSingle rt 1
      { base := .reg rn, offset := shiftedOffset rm ty imm5, index := p, add := u, wback := !p || w }) s

/-- STR (immediate), encoding A1 (R354). -/
def execStrImmA1 (p u w : Bool) (rn rt : BitVec 4) (imm12 : BitVec 12) (s : State) : Answer :=
  runHandler (do
    notInSubsetIf (!p && w)
    unpredictableIf ((!p || w) && (rn == 15 || rn == rt))
    storeSingle rt 4
      { base := .reg rn, offset := .imm (imm12.setWidth 32), index := p, add := u, wback := !p || w }) s

/-- STR (register), encoding A1 (R355). -/
def execStrRegA1 (p u w : Bool) (rn rt : BitVec 4) (imm5 : BitVec 5) (ty : BitVec 2) (rm : BitVec 4) (s : State) : Answer :=
  runHandler (do
    notInSubsetIf (!p && w)
    unpredictableIf (rm == 15 || (!p || w) && (rn == 15 || rn == rt))
    storeSingle rt 4
      { base := .reg rn, offset := shiftedOffset rm ty imm5, index := p, add := u, wback := !p || w }) s

/-- STRB (immediate), encoding A1 (R359). -/
def execStrbImmA1 (p u w : Bool) (rn rt : BitVec 4) (imm12 : BitVec 12) (s : State) : Answer :=
  runHandler (do
    notInSubsetIf (!p && w)
    unpredictableIf (rt == 15 || (!p || w) && (rn == 15 || rn == rt))
    storeSingle rt 1
      { base := .reg rn, offset := .imm (imm12.setWidth 32), index := p, add := u, wback := !p || w }) s

/-- STRB (register), encoding A1 (R360). -/
def execStrbRegA1 (p u w : Bool) (rn rt : BitVec 4) (imm5 : BitVec 5) (ty : BitVec 2) (rm : BitVec 4) (s : State) : Answer :=
  runHandler (do
    notInSubsetIf (!p && w)
    unpredictableIf (rm == 15 || rt == 15 || (!p || w) && (rn == 15 || rn == rt))
    storeSingle rt 1
      { base := .reg rn, offset := shiftedOffset rm ty imm5, index := p, add := u, wback := !p || w }) s

/-- LDR (immediate), encoding T1 (R351). -/
def execLdrImmT1 (imm5 : BitVec 5) (rn rt : BitVec 3) (s : State) : Answer :=
  runHandler (do
    loadSingle (lowReg rt) 4
      { base := .reg (lowReg rn), offset := .imm (imm5.setWidth 32 * 4), index := true, add := true, wback := false }) s

/-- LDR (immediate), encoding T2 (R351). -/
def execLdrImmT2 (rt : BitVec 3) (imm8 : BitVec 8) (s : State) : Answer :=
  runHandler (do
    loadSingle (lowReg rt) 4
      { base := .reg 13, offset := .imm (imm8.setWidth 32 * 4), index := true, add := true, wback := false }) s

/-- LDR (literal), encoding T1 (R352). -/
def execLdrLitT1 (rt : BitVec 3) (imm8 : BitVec 8) (s : State) : Answer :=
  runHandler (do
    loadSingle (lowReg rt) 4
      { base := .literal, offset := .imm (imm8.setWidth 32 * 4), index := true, add := true, wback := false }) s

/-- LDR (register), encoding T1 (R353). -/
def execLdrRegT1 (rm rn rt : BitVec 3) (s : State) : Answer :=
  runHandler (do
    loadSingle (lowReg rt) 4
      { base := .reg (lowReg rn), offset := .reg (lowReg rm) .lsl 0, index := true, add := true, wback := false }) s

/-- STR (immediate), encoding T1 (R354). -/
def execStrImmT1 (imm5 : BitVec 5) (rn rt : BitVec 3) (s : State) : Answer :=
  runHandler (do
    storeSingle (lowReg rt) 4
      { base := .reg (lowReg rn), offset := .imm (imm5.setWidth 32 * 4), index := true, add := true, wback := false }) s

/-- STR (immediate), encoding T2 (R354). -/
def execStrImmT2 (rt : BitVec 3) (imm8 : BitVec 8) (s : State) : Answer :=
  runHandler (do
    storeSingle (lowReg rt) 4
      { base := .reg 13, offset := .imm (imm8.setWidth 32 * 4), index := true, add := true, wback := false }) s

/-- STR (register), encoding T1 (R355). -/
def execStrRegT1 (rm rn rt : BitVec 3) (s : State) : Answer :=
  runHandler (do
    storeSingle (lowReg rt) 4
      { base := .reg (lowReg rn), offset := .reg (lowReg rm) .lsl 0, index := true, add := true, wback := false }) s

/-- LDRB (immediate), encoding T1 (R356). -/
def execLdrbImmT1 (imm5 : BitVec 5) (rn rt : BitVec 3) (s : State) : Answer :=
  runHandler (do
    loadSingle (lowReg rt) 1
      { base := .reg (lowReg rn), offset := .imm (imm5.setWidth 32), index := true, add := true, wback := false }) s

/-- LDRB (register), encoding T1 (R358). -/
def execLdrbRegT1 (rm rn rt : BitVec 3) (s : State) : Answer :=
  runHandler (do
    loadSingle (lowReg rt) 1
      { base := .reg (lowReg rn), offset := .reg (lowReg rm) .lsl 0, index := true, add := true, wback := false }) s

/-- STRB (immediate), encoding T1 (R359). -/
def execStrbImmT1 (imm5 : BitVec 5) (rn rt : BitVec 3) (s : State) : Answer :=
  runHandler (do
    storeSingle (lowReg rt) 1
      { base := .reg (lowReg rn), offset := .imm (imm5.setWidth 32), index := true, add := true, wback := false }) s

/-- STRB (register), encoding T1 (R360). -/
def execStrbRegT1 (rm rn rt : BitVec 3) (s : State) : Answer :=
  runHandler (do
    storeSingle (lowReg rt) 1
      { base := .reg (lowReg rn), offset := .reg (lowReg rm) .lsl 0, index := true, add := true, wback := false }) s

/-- LDR (literal), encoding T2 (R352). -/
def execLdrLitT2 (u : Bool) (rt : BitVec 4) (imm12 : BitVec 12) (s : State) : Answer :=
  runHandler (do
    let notLast ← inITNotLast
    unpredictableIf (rt == 15 && notLast)
    loadSingle rt 4
      { base := .literal, offset := .imm (imm12.setWidth 32), index := true, add := u, wback := false }) s

/-- LDR (immediate), encoding T3 (R351). -/
def execLdrImmT3 (rn rt : BitVec 4) (imm12 : BitVec 12) (s : State) : Answer :=
  runHandler (do
    let notLast ← inITNotLast
    unpredictableIf (rt == 15 && notLast)
    loadSingle rt 4
      { base := .reg rn, offset := .imm (imm12.setWidth 32), index := true, add := true, wback := false }) s

/-- LDR (immediate), encoding T4 (R351). -/
def execLdrImmT4 (rn rt : BitVec 4) (p u w : Bool) (imm8 : BitVec 8) (s : State) : Answer :=
  runHandler (do
    notInSubsetIf (p && u && !w)
    let notLast ← inITNotLast
    unpredictableIf (!p && !w || w && rn == rt || rt == 15 && notLast)
    loadSingle rt 4
      { base := .reg rn, offset := .imm (imm8.setWidth 32), index := p, add := u, wback := w }) s

/-- LDR (register), encoding T2 (R353). -/
def execLdrRegT2 (rn rt : BitVec 4) (imm2 : BitVec 2) (rm : BitVec 4) (s : State) : Answer :=
  runHandler (do
    let notLast ← inITNotLast
    unpredictableIf (badReg rm || rt == 15 && notLast)
    loadSingle rt 4
      { base := .reg rn, offset := .reg rm .lsl imm2.toNat, index := true, add := true, wback := false }) s

/-- LDRB (literal), encoding T1 (R357). -/
def execLdrbLitT1 (u : Bool) (rt : BitVec 4) (imm12 : BitVec 12) (s : State) : Answer :=
  runHandler (do
    notInSubsetIf (rt == 15)
    unpredictableIf (rt == 13)
    loadSingle rt 1
      { base := .literal, offset := .imm (imm12.setWidth 32), index := true, add := u, wback := false }) s

/-- LDRB (immediate), encoding T2 (R356). -/
def execLdrbImmT2 (rn rt : BitVec 4) (imm12 : BitVec 12) (s : State) : Answer :=
  runHandler (do
    notInSubsetIf (rt == 15)
    unpredictableIf (rt == 13)
    loadSingle rt 1
      { base := .reg rn, offset := .imm (imm12.setWidth 32), index := true, add := true, wback := false }) s

/-- LDRB (immediate), encoding T3 (R356). -/
def execLdrbImmT3 (rn rt : BitVec 4) (p u w : Bool) (imm8 : BitVec 8) (s : State) : Answer :=
  runHandler (do
    notInSubsetIf (p && u && !w || rt == 15 && p && !u && !w)
    unpredictableIf (!p && !w || badReg rt || w && rn == rt)
    loadSingle rt 1
      { base := .reg rn, offset := .imm (imm8.setWidth 32), index := p, add := u, wback := w }) s

/-- LDRB (register), encoding T2 (R358). -/
def execLdrbRegT2 (rn rt : BitVec 4) (imm2 : BitVec 2) (rm : BitVec 4) (s : State) : Answer :=
  runHandler (do
    notInSubsetIf (rt == 15)
    unpredictableIf (badReg rm || rt == 13)
    loadSingle rt 1
      { base := .reg rn, offset := .reg rm .lsl imm2.toNat, index := true, add := true, wback := false }) s

/-- STR (immediate), encoding T3 (R354). -/
def execStrImmT3 (rn rt : BitVec 4) (imm12 : BitVec 12) (s : State) : Answer :=
  runHandler (do
    unpredictableIf (rn == 15 || rt == 15)
    storeSingle rt 4
      { base := .reg rn, offset := .imm (imm12.setWidth 32), index := true, add := true, wback := false }) s

/-- STR (immediate), encoding T4 (R354). -/
def execStrImmT4 (rn rt : BitVec 4) (p u w : Bool) (imm8 : BitVec 8) (s : State) : Answer :=
  runHandler (do
    notInSubsetIf (p && u && !w)
    unpredictableIf (!p && !w || rn == 15 || rt == 15 || w && rn == rt)
    storeSingle rt 4
      { base := .reg rn, offset := .imm (imm8.setWidth 32), index := p, add := u, wback := w }) s

/-- STR (register), encoding T2 (R355). -/
def execStrRegT2 (rn rt : BitVec 4) (imm2 : BitVec 2) (rm : BitVec 4) (s : State) : Answer :=
  runHandler (do
    unpredictableIf (rn == 15 || badReg rm || rt == 15)
    storeSingle rt 4
      { base := .reg rn, offset := .reg rm .lsl imm2.toNat, index := true, add := true, wback := false }) s

/-- STRB (immediate), encoding T2 (R359). -/
def execStrbImmT2 (rn rt : BitVec 4) (imm12 : BitVec 12) (s : State) : Answer :=
  runHandler (do
    unpredictableIf (rn == 15 || badReg rt)
    storeSingle rt 1
      { base := .reg rn, offset := .imm (imm12.setWidth 32), index := true, add := true, wback := false }) s

/-- STRB (immediate), encoding T3 (R359). -/
def execStrbImmT3 (rn rt : BitVec 4) (p u w : Bool) (imm8 : BitVec 8) (s : State) : Answer :=
  runHandler (do
    notInSubsetIf (p && u && !w)
    unpredictableIf (!p && !w || rn == 15 || badReg rt || w && rn == rt)
    storeSingle rt 1
      { base := .reg rn, offset := .imm (imm8.setWidth 32), index := p, add := u, wback := w }) s

/-- STRB (register), encoding T2 (R360). -/
def execStrbRegT2 (rn rt : BitVec 4) (imm2 : BitVec 2) (rm : BitVec 4) (s : State) : Answer :=
  runHandler (do
    unpredictableIf (rn == 15 || badReg rm || badReg rt)
    storeSingle rt 1
      { base := .reg rn, offset := .reg rm .lsl imm2.toNat, index := true, add := true, wback := false }) s

end Sys2Proof.Machine
end

