-- ==== Sys2Proof/Machine/Shift.lean ====
section
/-! DEFINITION. The shift and rotate instructions (45_shift_rotate.md rules R280 to R289). One definition per decode-table row;
the tests of a rule stand before its first port call, those of NOT_IN_SUBSET first (60_exceptions.md rule R405). -/

namespace Sys2Proof.Machine

/-- ASR (immediate), encoding A1 (R281). -/
def execAsrImmA1 (setS : Bool) (rd : BitVec 4) (imm5 : BitVec 5) (rm : BitVec 4) (s : State) : Answer :=
  runHandler (shiftImm rd rm (decodeImmShift 2 imm5).1 (decodeImmShift 2 imm5).2 setS) s

/-- ASR (register), encoding A1 (R282). -/
def execAsrRegA1 (setS : Bool) (rd rm rn : BitVec 4) (s : State) : Answer :=
  runHandler (do
    unpredictableIf (rd == 15 || rn == 15 || rm == 15)
    shiftReg rd rn rm .asr setS) s

/-- LSL (immediate), encoding A1 (R283). -/
def execLslImmA1 (setS : Bool) (rd : BitVec 4) (imm5 : BitVec 5) (rm : BitVec 4) (s : State) : Answer :=
  runHandler (shiftImm rd rm (decodeImmShift 0 imm5).1 (decodeImmShift 0 imm5).2 setS) s

/-- LSL (register), encoding A1 (R284). -/
def execLslRegA1 (setS : Bool) (rd rm rn : BitVec 4) (s : State) : Answer :=
  runHandler (do
    unpredictableIf (rd == 15 || rn == 15 || rm == 15)
    shiftReg rd rn rm .lsl setS) s

/-- LSR (immediate), encoding A1 (R285). -/
def execLsrImmA1 (setS : Bool) (rd : BitVec 4) (imm5 : BitVec 5) (rm : BitVec 4) (s : State) : Answer :=
  runHandler (shiftImm rd rm (decodeImmShift 1 imm5).1 (decodeImmShift 1 imm5).2 setS) s

/-- LSR (register), encoding A1 (R286). -/
def execLsrRegA1 (setS : Bool) (rd rm rn : BitVec 4) (s : State) : Answer :=
  runHandler (do
    unpredictableIf (rd == 15 || rn == 15 || rm == 15)
    shiftReg rd rn rm .lsr setS) s

/-- RRX, encoding A1 (R289). -/
def execRrxA1 (setS : Bool) (rd rm : BitVec 4) (s : State) : Answer :=
  runHandler (shiftImm rd rm .rrx 1 setS) s

/-- ROR (immediate), encoding A1 (R287). -/
def execRorImmA1 (setS : Bool) (rd : BitVec 4) (imm5 : BitVec 5) (rm : BitVec 4) (s : State) : Answer :=
  runHandler (shiftImm rd rm (decodeImmShift 3 imm5).1 (decodeImmShift 3 imm5).2 setS) s

/-- ROR (register), encoding A1 (R288). -/
def execRorRegA1 (setS : Bool) (rd rm rn : BitVec 4) (s : State) : Answer :=
  runHandler (do
    unpredictableIf (rd == 15 || rn == 15 || rm == 15)
    shiftReg rd rn rm .ror setS) s

/-- ASR (immediate), encoding T1 (R281). -/
def execAsrImmT1 (imm5 : BitVec 5) (rm rd : BitVec 3) (s : State) : Answer :=
  runHandler (do
    let f ← flagsOutsideIT
    shiftImm (lowReg rd) (lowReg rm) (decodeImmShift 2 imm5).1 (decodeImmShift 2 imm5).2 f) s

/-- ASR (register), encoding T1 (R282). -/
def execAsrRegT1 (rm rdn : BitVec 3) (s : State) : Answer :=
  runHandler (do
    let f ← flagsOutsideIT
    shiftReg (lowReg rdn) (lowReg rdn) (lowReg rm) .asr f) s

/-- LSL (immediate), encoding T1 (R283). -/
def execLslImmT1 (imm5 : BitVec 5) (rm rd : BitVec 3) (s : State) : Answer :=
  runHandler (do
    let inside ← inIT
    unpredictableIf (imm5 == 0 && inside)
    let f ← flagsOutsideIT
    shiftImm (lowReg rd) (lowReg rm) (decodeImmShift 0 imm5).1 (decodeImmShift 0 imm5).2 f) s

/-- LSL (register), encoding T1 (R284). -/
def execLslRegT1 (rm rdn : BitVec 3) (s : State) : Answer :=
  runHandler (do
    let f ← flagsOutsideIT
    shiftReg (lowReg rdn) (lowReg rdn) (lowReg rm) .lsl f) s

/-- LSR (immediate), encoding T1 (R285). -/
def execLsrImmT1 (imm5 : BitVec 5) (rm rd : BitVec 3) (s : State) : Answer :=
  runHandler (do
    let f ← flagsOutsideIT
    shiftImm (lowReg rd) (lowReg rm) (decodeImmShift 1 imm5).1 (decodeImmShift 1 imm5).2 f) s

/-- LSR (register), encoding T1 (R286). -/
def execLsrRegT1 (rm rdn : BitVec 3) (s : State) : Answer :=
  runHandler (do
    let f ← flagsOutsideIT
    shiftReg (lowReg rdn) (lowReg rdn) (lowReg rm) .lsr f) s

/-- ROR (register), encoding T1 (R288). -/
def execRorRegT1 (rm rdn : BitVec 3) (s : State) : Answer :=
  runHandler (do
    let f ← flagsOutsideIT
    shiftReg (lowReg rdn) (lowReg rdn) (lowReg rm) .ror f) s

/-- LSL (immediate), encoding T2 (R283). -/
def execLslImmT2 (setS : Bool) (imm3 : BitVec 3) (rd : BitVec 4) (imm2 : BitVec 2) (rm : BitVec 4) (s : State) : Answer :=
  runHandler (do
    unpredictableIf (badReg rd || badReg rm)
    shiftImm rd rm (decodeImmShift 0 (imm3 ++ imm2)).1 (decodeImmShift 0 (imm3 ++ imm2)).2 setS) s

/-- LSR (immediate), encoding T2 (R285). -/
def execLsrImmT2 (setS : Bool) (imm3 : BitVec 3) (rd : BitVec 4) (imm2 : BitVec 2) (rm : BitVec 4) (s : State) : Answer :=
  runHandler (do
    unpredictableIf (badReg rd || badReg rm)
    shiftImm rd rm (decodeImmShift 1 (imm3 ++ imm2)).1 (decodeImmShift 1 (imm3 ++ imm2)).2 setS) s

/-- ASR (immediate), encoding T2 (R281). -/
def execAsrImmT2 (setS : Bool) (imm3 : BitVec 3) (rd : BitVec 4) (imm2 : BitVec 2) (rm : BitVec 4) (s : State) : Answer :=
  runHandler (do
    unpredictableIf (badReg rd || badReg rm)
    shiftImm rd rm (decodeImmShift 2 (imm3 ++ imm2)).1 (decodeImmShift 2 (imm3 ++ imm2)).2 setS) s

/-- RRX, encoding T1 (R289). -/
def execRrxT1 (setS : Bool) (rd rm : BitVec 4) (s : State) : Answer :=
  runHandler (do
    unpredictableIf (badReg rd || badReg rm)
    shiftImm rd rm .rrx 1 setS) s

/-- ROR (immediate), encoding T1 (R287). -/
def execRorImmT1 (setS : Bool) (imm3 : BitVec 3) (rd : BitVec 4) (imm2 : BitVec 2) (rm : BitVec 4) (s : State) : Answer :=
  runHandler (do
    unpredictableIf (badReg rd || badReg rm)
    shiftImm rd rm (decodeImmShift 3 (imm3 ++ imm2)).1 (decodeImmShift 3 (imm3 ++ imm2)).2 setS) s

/-- ASR (register), encoding T2 (R282). -/
def execAsrRegT2 (setS : Bool) (rn rd rm : BitVec 4) (s : State) : Answer :=
  runHandler (do
    unpredictableIf (badReg rd || badReg rn || badReg rm)
    shiftReg rd rn rm .asr setS) s

/-- LSL (register), encoding T2 (R284). -/
def execLslRegT2 (setS : Bool) (rn rd rm : BitVec 4) (s : State) : Answer :=
  runHandler (do
    unpredictableIf (badReg rd || badReg rn || badReg rm)
    shiftReg rd rn rm .lsl setS) s

/-- LSR (register), encoding T2 (R286). -/
def execLsrRegT2 (setS : Bool) (rn rd rm : BitVec 4) (s : State) : Answer :=
  runHandler (do
    unpredictableIf (badReg rd || badReg rn || badReg rm)
    shiftReg rd rn rm .lsr setS) s

/-- ROR (register), encoding T2 (R288). -/
def execRorRegT2 (setS : Bool) (rn rd rm : BitVec 4) (s : State) : Answer :=
  runHandler (do
    unpredictableIf (badReg rd || badReg rn || badReg rm)
    shiftReg rd rn rm .ror setS) s

end Sys2Proof.Machine
end

