-- ==== Sys2Proof/Machine/Stack.lean ====
section
/-! DEFINITION. The stack instructions PUSH, POP, VPUSH, VPOP (42_stack.md rules R200 to R204). One definition per decode-table row;
the tests of a rule stand before its first port call, those of NOT_IN_SUBSET first (60_exceptions.md rule R405). -/

namespace Sys2Proof.Machine

/-- PUSH, encoding A1 (R201). -/
def execPushA1 (regs : BitVec 16) (s : State) : Answer :=
  runHandler (do
    unpredictableIf (bitCount regs == 0)
    push regs) s

/-- PUSH, encoding A2 (R201). -/
def execPushA2 (rt : BitVec 4) (s : State) : Answer :=
  runHandler (do
    unpredictableIf (rt == 13)
    push (oneReg rt)) s

/-- VPUSH of D registers, encoding A1 (R203). -/
def execVpushA1 (dbit : BitVec 1) (vd : BitVec 4) (imm8 : BitVec 8) (s : State) : Answer :=
  runHandler (do
    unpredictableIf (extListDBad imm8 (extListD dbit vd imm8))
    vpush (extListD dbit vd imm8)) s

/-- VPUSH of S registers, encoding A2 (R203). -/
def execVpushA2 (dbit : BitVec 1) (vd : BitVec 4) (imm8 : BitVec 8) (s : State) : Answer :=
  runHandler (do
    unpredictableIf (extListSBad (extListS dbit vd imm8))
    vpush (extListS dbit vd imm8)) s

/-- POP, encoding A1 (R202). -/
def execPopA1 (regs : BitVec 16) (s : State) : Answer :=
  runHandler (do
    let version ← archVersion
    unpredictableIf (bitCount regs == 0 || regs.getLsbD 13 && decide (7 ≤ version))
    pop regs) s

/-- POP, encoding A2 (R202). -/
def execPopA2 (rt : BitVec 4) (s : State) : Answer :=
  runHandler (do
    unpredictableIf (rt == 13)
    pop (oneReg rt)) s

/-- VPOP of D registers, encoding A1 (R204). -/
def execVpopA1 (dbit : BitVec 1) (vd : BitVec 4) (imm8 : BitVec 8) (s : State) : Answer :=
  runHandler (do
    unpredictableIf (extListDBad imm8 (extListD dbit vd imm8))
    vpop (extListD dbit vd imm8)) s

/-- VPOP of S registers, encoding A2 (R204). -/
def execVpopA2 (dbit : BitVec 1) (vd : BitVec 4) (imm8 : BitVec 8) (s : State) : Answer :=
  runHandler (do
    unpredictableIf (extListSBad (extListS dbit vd imm8))
    vpop (extListS dbit vd imm8)) s

/-- PUSH, encoding T1 (R201). -/
def execPushT1 (m : Bool) (regs : BitVec 8) (s : State) : Answer :=
  runHandler (do
    unpredictableIf (bitCount (listM8 m regs) == 0)
    push (listM8 m regs)) s

/-- POP, encoding T1 (R202). -/
def execPopT1 (p : Bool) (regs : BitVec 8) (s : State) : Answer :=
  runHandler (do
    let notLast ← inITNotLast
    unpredictableIf (bitCount (listP8 p regs) == 0 || p && notLast)
    pop (listP8 p regs)) s

/-- PUSH, encoding T2 (R201). -/
def execPushT2 (m : Bool) (regs : BitVec 13) (s : State) : Answer :=
  runHandler (do
    unpredictableIf (decide (bitCount (listM13 m regs) < 2))
    push (listM13 m regs)) s

/-- PUSH, encoding T3 (R201). -/
def execPushT3 (rt : BitVec 4) (s : State) : Answer :=
  runHandler (do
    unpredictableIf (rt == 13 || rt == 15)
    push (oneReg rt)) s

/-- POP, encoding T2 (R202). -/
def execPopT2 (p m : Bool) (regs : BitVec 13) (s : State) : Answer :=
  runHandler (do
    let notLast ← inITNotLast
    unpredictableIf (decide (bitCount (listPM13 p m regs) < 2) || p && m || p && notLast)
    pop (listPM13 p m regs)) s

/-- POP, encoding T3 (R202). -/
def execPopT3 (rt : BitVec 4) (s : State) : Answer :=
  runHandler (do
    let notLast ← inITNotLast
    unpredictableIf (rt == 13 || rt == 15 && notLast)
    pop (oneReg rt)) s

/-- VPUSH of D registers, encoding T1 (R203). -/
def execVpushT1 (dbit : BitVec 1) (vd : BitVec 4) (imm8 : BitVec 8) (s : State) : Answer :=
  runHandler (do
    unpredictableIf (extListDBad imm8 (extListD dbit vd imm8))
    vpush (extListD dbit vd imm8)) s

/-- VPUSH of S registers, encoding T2 (R203). -/
def execVpushT2 (dbit : BitVec 1) (vd : BitVec 4) (imm8 : BitVec 8) (s : State) : Answer :=
  runHandler (do
    unpredictableIf (extListSBad (extListS dbit vd imm8))
    vpush (extListS dbit vd imm8)) s

/-- VPOP of D registers, encoding T1 (R204). -/
def execVpopT1 (dbit : BitVec 1) (vd : BitVec 4) (imm8 : BitVec 8) (s : State) : Answer :=
  runHandler (do
    unpredictableIf (extListDBad imm8 (extListD dbit vd imm8))
    vpop (extListD dbit vd imm8)) s

/-- VPOP of S registers, encoding T2 (R204). -/
def execVpopT2 (dbit : BitVec 1) (vd : BitVec 4) (imm8 : BitVec 8) (s : State) : Answer :=
  runHandler (do
    unpredictableIf (extListSBad (extListS dbit vd imm8))
    vpop (extListS dbit vd imm8)) s

end Sys2Proof.Machine
end

