-- ==== Sys2Proof/Machine/System.lean ====
section
/-! DEFINITION. SVC (49_svc_driver.md rule R380) and IT (41_condition_it.md rule R180). One definition per decode-table row;
the tests of a rule stand before its first port call, those of NOT_IN_SUBSET first (60_exceptions.md rule R405). -/

namespace Sys2Proof.Machine

/-- SVC, encoding A1 (R380). -/
def execSvcA1 (imm24 : BitVec 24) (s : State) : Answer :=
  runHandler (supervisorCall (imm24.setWidth 32)) s

/-- SVC, encoding T1 (R380). -/
def execSvcT1 (imm8 : BitVec 8) (s : State) : Answer :=
  runHandler (supervisorCall (imm8.setWidth 32)) s

/-- IT, encoding T1 (R180). -/
def execItT1 (firstcond mask : BitVec 4) (s : State) : Answer :=
  runHandler (do
    notInSubsetIf (mask == 0)
    unpredictableInIT
    match initIT (firstcond ++ mask) with
    | none => throw .unpredictableOperands
    | some x => setIT x) s

end Sys2Proof.Machine
end

