-- ==== Sys2Proof/Machine/Dispatch.lean ====
section
/-! DEFINITION. Stage Execute (49_svc_driver.md rule R387): each instruction runs its handler. The condition, the PC advance and
the IT advance are around it, in Machine/Driver.lean (rule R384). -/

namespace Sys2Proof.Machine

def exec (i : Instr) (s : State) : Host.Outcome State Fault Refusal :=
  match i with
  | .pushA1 _ regs => Sys2Proof.Machine.execPushA1 regs s
  | .pushA2 _ rt => Sys2Proof.Machine.execPushA2 rt s
  | .vpushA1 _ dbit vd imm8 => Sys2Proof.Machine.execVpushA1 dbit vd imm8 s
  | .vpushA2 _ dbit vd imm8 => Sys2Proof.Machine.execVpushA2 dbit vd imm8 s
  | .popA1 _ regs => Sys2Proof.Machine.execPopA1 regs s
  | .popA2 _ rt => Sys2Proof.Machine.execPopA2 rt s
  | .vpopA1 _ dbit vd imm8 => Sys2Proof.Machine.execVpopA1 dbit vd imm8 s
  | .vpopA2 _ dbit vd imm8 => Sys2Proof.Machine.execVpopA2 dbit vd imm8 s
  | .svcA1 _ imm24 => Sys2Proof.Machine.execSvcA1 imm24 s
  | .blxImmA2 h imm24 => Sys2Proof.Machine.execBlxImmA2 h imm24 s
  | .bA1 _ imm24 => Sys2Proof.Machine.execBA1 imm24 s
  | .blImmA1 _ imm24 => Sys2Proof.Machine.execBlImmA1 imm24 s
  | .blxRegA1 _ rm => Sys2Proof.Machine.execBlxRegA1 rm s
  | .bxA1 _ rm => Sys2Proof.Machine.execBxA1 rm s
  | .adcImmA1 _ setS rn rd imm12 => Sys2Proof.Machine.execAdcImmA1 setS rn rd imm12 s
  | .adcRegA1 _ setS rn rd imm5 ty rm => Sys2Proof.Machine.execAdcRegA1 setS rn rd imm5 ty rm s
  | .addImmA1 _ setS rn rd imm12 => Sys2Proof.Machine.execAddImmA1 setS rn rd imm12 s
  | .addRegA1 _ setS rn rd imm5 ty rm => Sys2Proof.Machine.execAddRegA1 setS rn rd imm5 ty rm s
  | .andImmA1 _ setS rn rd imm12 => Sys2Proof.Machine.execAndImmA1 setS rn rd imm12 s
  | .andRegA1 _ setS rn rd imm5 ty rm => Sys2Proof.Machine.execAndRegA1 setS rn rd imm5 ty rm s
  | .eorImmA1 _ setS rn rd imm12 => Sys2Proof.Machine.execEorImmA1 setS rn rd imm12 s
  | .eorRegA1 _ setS rn rd imm5 ty rm => Sys2Proof.Machine.execEorRegA1 setS rn rd imm5 ty rm s
  | .orrImmA1 _ setS rn rd imm12 => Sys2Proof.Machine.execOrrImmA1 setS rn rd imm12 s
  | .orrRegA1 _ setS rn rd imm5 ty rm => Sys2Proof.Machine.execOrrRegA1 setS rn rd imm5 ty rm s
  | .rsbImmA1 _ setS rn rd imm12 => Sys2Proof.Machine.execRsbImmA1 setS rn rd imm12 s
  | .rsbRegA1 _ setS rn rd imm5 ty rm => Sys2Proof.Machine.execRsbRegA1 setS rn rd imm5 ty rm s
  | .rscImmA1 _ setS rn rd imm12 => Sys2Proof.Machine.execRscImmA1 setS rn rd imm12 s
  | .rscRegA1 _ setS rn rd imm5 ty rm => Sys2Proof.Machine.execRscRegA1 setS rn rd imm5 ty rm s
  | .subImmA1 _ setS rn rd imm12 => Sys2Proof.Machine.execSubImmA1 setS rn rd imm12 s
  | .subRegA1 _ setS rn rd imm5 ty rm => Sys2Proof.Machine.execSubRegA1 setS rn rd imm5 ty rm s
  | .teqImmA1 _ rn imm12 => Sys2Proof.Machine.execTeqImmA1 rn imm12 s
  | .teqRegA1 _ rn imm5 ty rm => Sys2Proof.Machine.execTeqRegA1 rn imm5 ty rm s
  | .tstImmA1 _ rn imm12 => Sys2Proof.Machine.execTstImmA1 rn imm12 s
  | .tstRegA1 _ rn imm5 ty rm => Sys2Proof.Machine.execTstRegA1 rn imm5 ty rm s
  | .mvnImmA1 _ setS rd imm12 => Sys2Proof.Machine.execMvnImmA1 setS rd imm12 s
  | .mvnRegA1 _ setS rd imm5 ty rm => Sys2Proof.Machine.execMvnRegA1 setS rd imm5 ty rm s
  | .cmnImmA1 _ rn imm12 => Sys2Proof.Machine.execCmnImmA1 rn imm12 s
  | .cmnRegA1 _ rn imm5 ty rm => Sys2Proof.Machine.execCmnRegA1 rn imm5 ty rm s
  | .cmpImmA1 _ rn imm12 => Sys2Proof.Machine.execCmpImmA1 rn imm12 s
  | .cmpRegA1 _ rn imm5 ty rm => Sys2Proof.Machine.execCmpRegA1 rn imm5 ty rm s
  | .asrImmA1 _ setS rd imm5 rm => Sys2Proof.Machine.execAsrImmA1 setS rd imm5 rm s
  | .asrRegA1 _ setS rd rm rn => Sys2Proof.Machine.execAsrRegA1 setS rd rm rn s
  | .lslImmA1 _ setS rd imm5 rm => Sys2Proof.Machine.execLslImmA1 setS rd imm5 rm s
  | .lslRegA1 _ setS rd rm rn => Sys2Proof.Machine.execLslRegA1 setS rd rm rn s
  | .lsrImmA1 _ setS rd imm5 rm => Sys2Proof.Machine.execLsrImmA1 setS rd imm5 rm s
  | .lsrRegA1 _ setS rd rm rn => Sys2Proof.Machine.execLsrRegA1 setS rd rm rn s
  | .rrxA1 _ setS rd rm => Sys2Proof.Machine.execRrxA1 setS rd rm s
  | .rorImmA1 _ setS rd imm5 rm => Sys2Proof.Machine.execRorImmA1 setS rd imm5 rm s
  | .rorRegA1 _ setS rd rm rn => Sys2Proof.Machine.execRorRegA1 setS rd rm rn s
  | .ldmA1 _ w rn regs => Sys2Proof.Machine.execLdmA1 w rn regs s
  | .ldmdaA1 _ w rn regs => Sys2Proof.Machine.execLdmdaA1 w rn regs s
  | .ldmdbA1 _ w rn regs => Sys2Proof.Machine.execLdmdbA1 w rn regs s
  | .ldmibA1 _ w rn regs => Sys2Proof.Machine.execLdmibA1 w rn regs s
  | .ldrLitA1 _ u rt imm12 => Sys2Proof.Machine.execLdrLitA1 u rt imm12 s
  | .ldrImmA1 _ p u w rn rt imm12 => Sys2Proof.Machine.execLdrImmA1 p u w rn rt imm12 s
  | .ldrRegA1 _ p u w rn rt imm5 ty rm => Sys2Proof.Machine.execLdrRegA1 p u w rn rt imm5 ty rm s
  | .ldrbLitA1 _ u rt imm12 => Sys2Proof.Machine.execLdrbLitA1 u rt imm12 s
  | .ldrbImmA1 _ p u w rn rt imm12 => Sys2Proof.Machine.execLdrbImmA1 p u w rn rt imm12 s
  | .ldrbRegA1 _ p u w rn rt imm5 ty rm => Sys2Proof.Machine.execLdrbRegA1 p u w rn rt imm5 ty rm s
  | .stmA1 _ w rn regs => Sys2Proof.Machine.execStmA1 w rn regs s
  | .stmdaA1 _ w rn regs => Sys2Proof.Machine.execStmdaA1 w rn regs s
  | .stmdbA1 _ w rn regs => Sys2Proof.Machine.execStmdbA1 w rn regs s
  | .stmibA1 _ w rn regs => Sys2Proof.Machine.execStmibA1 w rn regs s
  | .strImmA1 _ p u w rn rt imm12 => Sys2Proof.Machine.execStrImmA1 p u w rn rt imm12 s
  | .strRegA1 _ p u w rn rt imm5 ty rm => Sys2Proof.Machine.execStrRegA1 p u w rn rt imm5 ty rm s
  | .strbImmA1 _ p u w rn rt imm12 => Sys2Proof.Machine.execStrbImmA1 p u w rn rt imm12 s
  | .strbRegA1 _ p u w rn rt imm5 ty rm => Sys2Proof.Machine.execStrbRegA1 p u w rn rt imm5 ty rm s
  | .pushT1 m regs => Sys2Proof.Machine.execPushT1 m regs s
  | .popT1 p regs => Sys2Proof.Machine.execPopT1 p regs s
  | .addSpImmT1 rd imm8 => Sys2Proof.Machine.execAddSpImmT1 rd imm8 s
  | .addSpImmT2 imm7 => Sys2Proof.Machine.execAddSpImmT2 imm7 s
  | .subSpImmT1 imm7 => Sys2Proof.Machine.execSubSpImmT1 imm7 s
  | .svcT1 imm8 => Sys2Proof.Machine.execSvcT1 imm8 s
  | .bT1 cond imm8 => Sys2Proof.Machine.execBT1 cond imm8 s
  | .bT2 imm11 => Sys2Proof.Machine.execBT2 imm11 s
  | .blxRegT1 rm => Sys2Proof.Machine.execBlxRegT1 rm s
  | .bxT1 rm => Sys2Proof.Machine.execBxT1 rm s
  | .cbzT1 i1 imm5 rn => Sys2Proof.Machine.execCbzT1 i1 imm5 rn s
  | .cbnzT1 i1 imm5 rn => Sys2Proof.Machine.execCbnzT1 i1 imm5 rn s
  | .itT1 firstcond mask => Sys2Proof.Machine.execItT1 firstcond mask s
  | .adcRegT1 rm rdn => Sys2Proof.Machine.execAdcRegT1 rm rdn s
  | .addImmT1 imm3 rn rd => Sys2Proof.Machine.execAddImmT1 imm3 rn rd s
  | .addImmT2 rdn imm8 => Sys2Proof.Machine.execAddImmT2 rdn imm8 s
  | .addRegT1 rm rn rd => Sys2Proof.Machine.execAddRegT1 rm rn rd s
  | .addRegT2 dn rm rdn => Sys2Proof.Machine.execAddRegT2 dn rm rdn s
  | .andRegT1 rm rdn => Sys2Proof.Machine.execAndRegT1 rm rdn s
  | .eorRegT1 rm rdn => Sys2Proof.Machine.execEorRegT1 rm rdn s
  | .orrRegT1 rm rdn => Sys2Proof.Machine.execOrrRegT1 rm rdn s
  | .mvnRegT1 rm rd => Sys2Proof.Machine.execMvnRegT1 rm rd s
  | .rsbImmT1 rn rd => Sys2Proof.Machine.execRsbImmT1 rn rd s
  | .subImmT1 imm3 rn rd => Sys2Proof.Machine.execSubImmT1 imm3 rn rd s
  | .subImmT2 rdn imm8 => Sys2Proof.Machine.execSubImmT2 rdn imm8 s
  | .subRegT1 rm rn rd => Sys2Proof.Machine.execSubRegT1 rm rn rd s
  | .cmpImmT1 rn imm8 => Sys2Proof.Machine.execCmpImmT1 rn imm8 s
  | .cmpRegT1 rm rn => Sys2Proof.Machine.execCmpRegT1 rm rn s
  | .cmpRegT2 nbit rm rn => Sys2Proof.Machine.execCmpRegT2 nbit rm rn s
  | .cmnRegT1 rm rn => Sys2Proof.Machine.execCmnRegT1 rm rn s
  | .tstRegT1 rm rn => Sys2Proof.Machine.execTstRegT1 rm rn s
  | .asrImmT1 imm5 rm rd => Sys2Proof.Machine.execAsrImmT1 imm5 rm rd s
  | .asrRegT1 rm rdn => Sys2Proof.Machine.execAsrRegT1 rm rdn s
  | .lslImmT1 imm5 rm rd => Sys2Proof.Machine.execLslImmT1 imm5 rm rd s
  | .lslRegT1 rm rdn => Sys2Proof.Machine.execLslRegT1 rm rdn s
  | .lsrImmT1 imm5 rm rd => Sys2Proof.Machine.execLsrImmT1 imm5 rm rd s
  | .lsrRegT1 rm rdn => Sys2Proof.Machine.execLsrRegT1 rm rdn s
  | .rorRegT1 rm rdn => Sys2Proof.Machine.execRorRegT1 rm rdn s
  | .ldmT1 rn regs => Sys2Proof.Machine.execLdmT1 rn regs s
  | .stmT1 rn regs => Sys2Proof.Machine.execStmT1 rn regs s
  | .ldrImmT1 imm5 rn rt => Sys2Proof.Machine.execLdrImmT1 imm5 rn rt s
  | .ldrImmT2 rt imm8 => Sys2Proof.Machine.execLdrImmT2 rt imm8 s
  | .ldrLitT1 rt imm8 => Sys2Proof.Machine.execLdrLitT1 rt imm8 s
  | .ldrRegT1 rm rn rt => Sys2Proof.Machine.execLdrRegT1 rm rn rt s
  | .strImmT1 imm5 rn rt => Sys2Proof.Machine.execStrImmT1 imm5 rn rt s
  | .strImmT2 rt imm8 => Sys2Proof.Machine.execStrImmT2 rt imm8 s
  | .strRegT1 rm rn rt => Sys2Proof.Machine.execStrRegT1 rm rn rt s
  | .ldrbImmT1 imm5 rn rt => Sys2Proof.Machine.execLdrbImmT1 imm5 rn rt s
  | .ldrbRegT1 rm rn rt => Sys2Proof.Machine.execLdrbRegT1 rm rn rt s
  | .strbImmT1 imm5 rn rt => Sys2Proof.Machine.execStrbImmT1 imm5 rn rt s
  | .strbRegT1 rm rn rt => Sys2Proof.Machine.execStrbRegT1 rm rn rt s
  | .pushT2 m regs => Sys2Proof.Machine.execPushT2 m regs s
  | .pushT3 rt => Sys2Proof.Machine.execPushT3 rt s
  | .popT2 p m regs => Sys2Proof.Machine.execPopT2 p m regs s
  | .popT3 rt => Sys2Proof.Machine.execPopT3 rt s
  | .vpushT1 dbit vd imm8 => Sys2Proof.Machine.execVpushT1 dbit vd imm8 s
  | .vpushT2 dbit vd imm8 => Sys2Proof.Machine.execVpushT2 dbit vd imm8 s
  | .vpopT1 dbit vd imm8 => Sys2Proof.Machine.execVpopT1 dbit vd imm8 s
  | .vpopT2 dbit vd imm8 => Sys2Proof.Machine.execVpopT2 dbit vd imm8 s
  | .bT3 sgn cond imm6 j1 j2 imm11 => Sys2Proof.Machine.execBT3 sgn cond imm6 j1 j2 imm11 s
  | .bT4 sgn imm10 j1 j2 imm11 => Sys2Proof.Machine.execBT4 sgn imm10 j1 j2 imm11 s
  | .blxImmT2 sgn imm10h j1 j2 imm10l h => Sys2Proof.Machine.execBlxImmT2 sgn imm10h j1 j2 imm10l h s
  | .blImmT1 sgn imm10 j1 j2 imm11 => Sys2Proof.Machine.execBlImmT1 sgn imm10 j1 j2 imm11 s
  | .tbbT1 rn rm => Sys2Proof.Machine.execTbbT1 rn rm s
  | .tbhT1 rn rm => Sys2Proof.Machine.execTbhT1 rn rm s
  | .cmnImmT1 i1 rn imm3 imm8 => Sys2Proof.Machine.execCmnImmT1 i1 rn imm3 imm8 s
  | .cmpImmT2 i1 rn imm3 imm8 => Sys2Proof.Machine.execCmpImmT2 i1 rn imm3 imm8 s
  | .tstImmT1 i1 rn imm3 imm8 => Sys2Proof.Machine.execTstImmT1 i1 rn imm3 imm8 s
  | .teqImmT1 i1 rn imm3 imm8 => Sys2Proof.Machine.execTeqImmT1 i1 rn imm3 imm8 s
  | .cmnRegT2 rn imm3 imm2 ty rm => Sys2Proof.Machine.execCmnRegT2 rn imm3 imm2 ty rm s
  | .cmpRegT3 rn imm3 imm2 ty rm => Sys2Proof.Machine.execCmpRegT3 rn imm3 imm2 ty rm s
  | .tstRegT2 rn imm3 imm2 ty rm => Sys2Proof.Machine.execTstRegT2 rn imm3 imm2 ty rm s
  | .teqRegT1 rn imm3 imm2 ty rm => Sys2Proof.Machine.execTeqRegT1 rn imm3 imm2 ty rm s
  | .adcImmT1 i1 setS rn imm3 rd imm8 => Sys2Proof.Machine.execAdcImmT1 i1 setS rn imm3 rd imm8 s
  | .adcRegT2 setS rn imm3 rd imm2 ty rm => Sys2Proof.Machine.execAdcRegT2 setS rn imm3 rd imm2 ty rm s
  | .addImmT3 i1 setS rn imm3 rd imm8 => Sys2Proof.Machine.execAddImmT3 i1 setS rn imm3 rd imm8 s
  | .addImmT4 i1 rn imm3 rd imm8 => Sys2Proof.Machine.execAddImmT4 i1 rn imm3 rd imm8 s
  | .addRegT3 setS rn imm3 rd imm2 ty rm => Sys2Proof.Machine.execAddRegT3 setS rn imm3 rd imm2 ty rm s
  | .andImmT1 i1 setS rn imm3 rd imm8 => Sys2Proof.Machine.execAndImmT1 i1 setS rn imm3 rd imm8 s
  | .andRegT2 setS rn imm3 rd imm2 ty rm => Sys2Proof.Machine.execAndRegT2 setS rn imm3 rd imm2 ty rm s
  | .eorImmT1 i1 setS rn imm3 rd imm8 => Sys2Proof.Machine.execEorImmT1 i1 setS rn imm3 rd imm8 s
  | .eorRegT2 setS rn imm3 rd imm2 ty rm => Sys2Proof.Machine.execEorRegT2 setS rn imm3 rd imm2 ty rm s
  | .mvnImmT1 i1 setS imm3 rd imm8 => Sys2Proof.Machine.execMvnImmT1 i1 setS imm3 rd imm8 s
  | .mvnRegT2 setS imm3 rd imm2 ty rm => Sys2Proof.Machine.execMvnRegT2 setS imm3 rd imm2 ty rm s
  | .lslImmT2 setS imm3 rd imm2 rm => Sys2Proof.Machine.execLslImmT2 setS imm3 rd imm2 rm s
  | .lsrImmT2 setS imm3 rd imm2 rm => Sys2Proof.Machine.execLsrImmT2 setS imm3 rd imm2 rm s
  | .asrImmT2 setS imm3 rd imm2 rm => Sys2Proof.Machine.execAsrImmT2 setS imm3 rd imm2 rm s
  | .rrxT1 setS rd rm => Sys2Proof.Machine.execRrxT1 setS rd rm s
  | .rorImmT1 setS imm3 rd imm2 rm => Sys2Proof.Machine.execRorImmT1 setS imm3 rd imm2 rm s
  | .orrImmT1 i1 setS rn imm3 rd imm8 => Sys2Proof.Machine.execOrrImmT1 i1 setS rn imm3 rd imm8 s
  | .orrRegT2 setS rn imm3 rd imm2 ty rm => Sys2Proof.Machine.execOrrRegT2 setS rn imm3 rd imm2 ty rm s
  | .rsbImmT2 i1 setS rn imm3 rd imm8 => Sys2Proof.Machine.execRsbImmT2 i1 setS rn imm3 rd imm8 s
  | .rsbRegT1 setS rn imm3 rd imm2 ty rm => Sys2Proof.Machine.execRsbRegT1 setS rn imm3 rd imm2 ty rm s
  | .subImmT3 i1 setS rn imm3 rd imm8 => Sys2Proof.Machine.execSubImmT3 i1 setS rn imm3 rd imm8 s
  | .subImmT4 i1 rn imm3 rd imm8 => Sys2Proof.Machine.execSubImmT4 i1 rn imm3 rd imm8 s
  | .subRegT2 setS rn imm3 rd imm2 ty rm => Sys2Proof.Machine.execSubRegT2 setS rn imm3 rd imm2 ty rm s
  | .asrRegT2 setS rn rd rm => Sys2Proof.Machine.execAsrRegT2 setS rn rd rm s
  | .lslRegT2 setS rn rd rm => Sys2Proof.Machine.execLslRegT2 setS rn rd rm s
  | .lsrRegT2 setS rn rd rm => Sys2Proof.Machine.execLsrRegT2 setS rn rd rm s
  | .rorRegT2 setS rn rd rm => Sys2Proof.Machine.execRorRegT2 setS rn rd rm s
  | .ldmT2 w rn p m regs => Sys2Proof.Machine.execLdmT2 w rn p m regs s
  | .ldmdbT1 w rn p m regs => Sys2Proof.Machine.execLdmdbT1 w rn p m regs s
  | .stmT2 w rn m regs => Sys2Proof.Machine.execStmT2 w rn m regs s
  | .stmdbT1 w rn m regs => Sys2Proof.Machine.execStmdbT1 w rn m regs s
  | .ldrLitT2 u rt imm12 => Sys2Proof.Machine.execLdrLitT2 u rt imm12 s
  | .ldrImmT3 rn rt imm12 => Sys2Proof.Machine.execLdrImmT3 rn rt imm12 s
  | .ldrImmT4 rn rt p u w imm8 => Sys2Proof.Machine.execLdrImmT4 rn rt p u w imm8 s
  | .ldrRegT2 rn rt imm2 rm => Sys2Proof.Machine.execLdrRegT2 rn rt imm2 rm s
  | .ldrbLitT1 u rt imm12 => Sys2Proof.Machine.execLdrbLitT1 u rt imm12 s
  | .ldrbImmT2 rn rt imm12 => Sys2Proof.Machine.execLdrbImmT2 rn rt imm12 s
  | .ldrbImmT3 rn rt p u w imm8 => Sys2Proof.Machine.execLdrbImmT3 rn rt p u w imm8 s
  | .ldrbRegT2 rn rt imm2 rm => Sys2Proof.Machine.execLdrbRegT2 rn rt imm2 rm s
  | .strImmT3 rn rt imm12 => Sys2Proof.Machine.execStrImmT3 rn rt imm12 s
  | .strImmT4 rn rt p u w imm8 => Sys2Proof.Machine.execStrImmT4 rn rt p u w imm8 s
  | .strRegT2 rn rt imm2 rm => Sys2Proof.Machine.execStrRegT2 rn rt imm2 rm s
  | .strbImmT2 rn rt imm12 => Sys2Proof.Machine.execStrbImmT2 rn rt imm12 s
  | .strbImmT3 rn rt p u w imm8 => Sys2Proof.Machine.execStrbImmT3 rn rt p u w imm8 s
  | .strbRegT2 rn rt imm2 rm => Sys2Proof.Machine.execStrbRegT2 rn rt imm2 rm s

end Sys2Proof.Machine
end

