-- ==== Sys2Proof/Machine/Driver.lean ====
section
/-! DEFINITION. The three commands and the driver (49_svc_driver.md rules R381 to R393), reset as instance creation
(70_reset_and_hazards.md rules R440, R441), and the host's actions between commands (R392). A command that returns false
sets `FAULT`; one that returns true clears it (60_exceptions.md rule R400). -/

namespace Sys2Proof.Machine

/-! ## setArchitecture (R381) -/

/-- The names of the table of 10_state.md rule R24, as their characters (log 16). -/
def archNames : List (List Char × ArchVariant) :=
  [ (['a', 'r', 'm', 'v', '4'], .armv4),
    (['a', 'r', 'm', 'v', '4', 't'], .armv4t),
    (['a', 'r', 'm', 'v', '5', 't'], .armv5t),
    (['a', 'r', 'm', 'v', '5', 't', 'e'], .armv5te),
    (['a', 'r', 'm', 'v', '5', 't', 'e', 'j'], .armv5tej),
    (['a', 'r', 'm', 'v', '6'], .armv6),
    (['a', 'r', 'm', 'v', '6', 'k'], .armv6k),
    (['a', 'r', 'm', 'v', '6', 't', '2'], .armv6t2),
    (['a', 'r', 'm', 'v', '7'], .armv7),
    (['a', 'r', 'm', 'v', '8'], .armv8) ]

/-- The variant of a name, letter case ignored (R381, R24). -/
def archOfName (name : List Char) : Option ArchVariant :=
  (archNames.find? fun p => p.1 == name.map Char.toLower).map Prod.snd

/-- `setArchitecture(name)` (R381): it writes `ARCH` and `FAULT` only. -/
def setArchitecture (name : List Char) (s : State) : State :=
  match archOfName name with
  | some v => { s with arch := v, fault := none }
  | none => { s with arch := .unknown, fault := some .invalidArchitecture }

/-! ## readInstruction (R383) -/

/-- The latch marked not valid. -/
def State.dropLatch (s : State) : State := { s with inst := { s.inst with valid := false } }

/-- A latched instruction (R22). -/
def latchInstruction (x : Latch) : Handler Unit := modify fun s => { s with inst := x }

/-- An ARM fetch (R383): alignment, then one read of 4 bytes. -/
def fetchArm (pc cpsr : Word) : Handler Unit := do
  if pc.extractLsb' 0 2 != 0 then throw .fetchFailure
  let w ← memRead .readOpcode pc 4
  latchInstruction { valid := true, raw := w.setWidth 32, width := .w32, mode := .arm, addr := pc, cpsr := cpsr }

/-- A Thumb fetch (R383, 30_encoding.md rules R95, R96): alignment, one read of 2 bytes, and a second one where the first
halfword begins a 32-bit instruction. -/
def fetchThumb (pc cpsr : Word) : Handler Unit := do
  if pc.getLsbD 0 then throw .fetchFailure
  let h1 ← memRead .readOpcode pc 2
  if thumbIsWide (h1.setWidth 16) then
    let h2 ← memRead .readOpcode (pc + 2) 2
    latchInstruction
      { valid := true, raw := h1.setWidth 16 ++ h2.setWidth 16, width := .w32, mode := .thumb, addr := pc, cpsr := cpsr }
  else
    latchInstruction
      { valid := true, raw := (h1.setWidth 16).setWidth 32, width := .w16, mode := .thumb, addr := pc, cpsr := cpsr }

/-- The body of `readInstruction` (R383): status register, PC, memory, in that order. -/
def fetch : Handler Unit := do
  modify State.dropLatch
  let c ← callRead (portReadRegister .status)
  let pc ← callRead (portReadRegister (.core 15))
  let cpsr := c.setWidth 32
  if flagT cpsr then
    modify fun s => { s with mode := .thumb }
    fetchThumb (pc.setWidth 32) cpsr
  else
    modify fun s => { s with mode := .arm }
    fetchArm (pc.setWidth 32) cpsr

/-- `readInstruction()` (R383): on any failure `MODE` is Invalid, the latch not valid and `FAULT` FetchFailure (R404). -/
def readInstruction (s : State) : State :=
  match fetch s with
  | .ok _ t => t.succeed
  | .error _ t => State.raise .fetchFailure { t.dropLatch with mode := .invalid }

/-! ## evaluateInstruction (R384) -/

/-- `CurrentCond()` of the latched instruction (41_condition_it.md rule R170). -/
def currentCond (s : State) (i : Instr) : BitVec 4 :=
  if s.inst.mode = .arm then fld s.inst.raw 28 4
  else
    match i with
    | .bT1 .. => fld s.inst.raw 8 4
    | .bT3 .. => fld s.inst.raw 22 4
    | _ => if s.inITBlock then s.it.state.extractLsb' 4 4 else 14

/-- The working values at the start of the command: the latch is consumed (R384). -/
def State.beginEvaluate (s : State) : State :=
  { s.dropLatch with pcWritten := false, cpsrOut := s.inst.cpsr }

/-- Stages ConditionCheck and Execute (R386, R387): a failed condition runs no handler and is no failure. -/
def executeStage (i : Instr) (s : State) : Answer :=
  if conditionPassed (currentCond s i) s.inst.cpsr then exec i s else .next s.succeed

/-- The width of the latched instruction in bytes. -/
def Latch.bytes (x : Latch) : Word :=
  match x.width with
  | .w16 => 2
  | .w32 => 4

/-- The PC advance (R389). -/
def advancePC : Handler Unit := do
  let s ← get
  if s.params.autoAdvancePc && !s.pcWritten then writeReg .advancePC 15 (s.inst.addr + s.inst.bytes)

/-- Stage AdvanceIT (R390): once, where the session was not empty when the command started. -/
def State.advanceIT (s : State) (wasInIT : Bool) : State := if wasInIT then { s with it := itAdvance s.it } else s

/-- The end of a command whose condition failed or whose handler ended normally (R384, R389, R390); `start` is the session
the command started with. A refused PC advance fails the command, so it leaves that session, also where the handler was that
of IT (41_condition_it.md rule R178 (c)). -/
def retire (start : ITSession) (wasInIT : Bool) (s : State) : Answer :=
  match advancePC s with
  | .ok _ t => .next (t.advanceIT wasInIT).succeed
  | .error f t => .next (State.raise f { t with it := start })

/-- What follows stage Decode (R384): a failure of the handler ends the command. -/
def evaluateDecoded (i : Instr) (s : State) : Answer :=
  match executeStage i s with
  | .next t => if t.fault = none then retire s.it s.inITBlock t else .next t
  | .fault f => .fault f
  | .refused r => .refused r

/-- `evaluateInstruction()` (R384, R391). -/
def evaluateInstruction (s : State) : Answer :=
  if s.inst.valid then
    match lookup s.params s.arch s.inst.mode s.inst.width s.inst.raw with
    | some i => evaluateDecoded i s.beginEvaluate
    | none => .next (s.beginEvaluate.raise .unsupportedEncoding)
  else .next (s.raise .noInstruction)

/-! ## The host -/

/-- A new instance of the block in the same environment: the block's reset (R440, R441, log 22). -/
def newInstance (p : Params) (s : State) : State :=
  { s with
    params := p
    arch := .unknown
    mode := .invalid
    it := { state := 0, remaining := 0 }
    inst := Latch.reset
    fault := none
    pcWritten := false
    cpsrOut := 0 }

/-- One action of the host (R382, R392, R441, R453). -/
def hostAct (s : State) : HostAction → Answer
  | .setArchitecture name => .next (setArchitecture name s)
  | .readInstruction => .next (readInstruction s)
  | .evaluateInstruction => evaluateInstruction s
  | .newInstance p => .next (newInstance p s)
  | .setCore n v => .next (s.setCore n v)
  | .setStatus v => .next { s with status := v }
  | .setExt n v => .next (s.setExt n v)
  | .setByte a (some b) => .next { s with mem := Memory.write s.mem a.toNat b }
  | .setByte a none => .next { s with mem := Memory.erase s.mem a.toNat }
  | .setRefusals ts => .next { s with refusals := ts }

/-- A step of the run loop that failed: the run has stopped (R393, log 7). -/
def State.stopIfFailed (s : State) : State := { s with stopped := s.fault.isSome }

/-- `Step()` of the reference run loop (R393). -/
def hostStep (s : State) : Answer :=
  let t := readInstruction s
  if t.fault = none then
    match evaluateInstruction t with
    | .next u => .next u.stopIfFailed
    | .fault f => .fault f
    | .refused r => .refused r
  else .next t.stopIfFailed

/-- The PC equals `HALT_ADDRESS` (R393): the full value is compared. -/
def State.atHalt (s : State) : Bool := s.params.haltAddress == some (s.getCore 15)

/-- The machine's step (log 8): the host's next action; with none left, one turn of `Run` (R393). -/
def machineStep (s : State) : Answer :=
  match s.script with
  | a :: rest => hostAct { s with script := rest, stopped := false } a
  | [] =>
    if s.stopped then .fault (.stopped s.fault)
    else if s.atHalt then .fault .halted
    else hostStep s

/-- The results of `Run(fuel)` (R393). -/
inductive RunResult where
  | halted
  | stopped (f : Option Failure)
  | outOfFuel
  deriving DecidableEq, Repr

/-- `Run(fuel)` (R393), with the end state. -/
def run : Nat → State → RunResult × State
  | 0, s => (.outOfFuel, s)
  | k + 1, s =>
    if s.atHalt then (.halted, s)
    else
      match hostStep s with
      | .next t => if t.stopped then (.stopped t.fault, t) else run k t
      | .fault _ => (.stopped s.fault, s)
      | .refused _ => (.stopped s.fault, s)

/-! ## Placing an instruction for the next step -/

/-- The PC rounded down to what an instruction set's fetch needs (20_memory.md rule R66). -/
def fetchAlign (set : InstrSet) (pc : Word) : Word := maskPC (modeOf set) pc

/-- Bytes stored from an address on, modulo 2^32. -/
def storeBytes (m : Memory) (a : Word) : List Byte → Memory
  | [] => m
  | b :: rest => storeBytes (Memory.write m a.toNat b) (a + 1) rest

/-- The port targets a fetch of up to four bytes at `pc` uses. -/
def fetchTargets (pc : Word) : List PortTarget :=
  .readReg .status :: .readReg (.core 15) :: (byteAddrs pc 4).map .readMem

/-- The state whose next step fetches and runs a table word (log 9): its bytes at the PC, bit T as the word's set, nothing of
the host in the way. -/
def placeFetchWord (s : State) (nbits w : Nat) : State :=
  let set := tableWordSet nbits w
  let pc := fetchAlign set (s.getCore 15)
  let t := s.setCore 15 pc
  { t with
    status := setBit t.status 5 (set == .thumb)
    mem := storeBytes t.mem pc (tableWordBytes nbits w)
    refusals := t.refusals.filter fun r => !decide (r ∈ fetchTargets pc)
    params := { t.params with haltAddress := if t.params.haltAddress = some pc then none else t.params.haltAddress }
    script := []
    stopped := false }

end Sys2Proof.Machine
end

