-- ==== Sys2Proof/Machine/Step.lean ====
section
/-! DEFINITION. One step of the machine (49_svc_driver.md rule R393, log 8), and the placing of an instruction word for the
next step (log 9). -/

namespace Sys2Proof.Machine

/-- One step: the host's next action, or, with none left, one turn of the reference run loop (R393). -/
def step (s : State) : Host.Outcome State Fault Refusal := machineStep s

/-- `s` with an opcode-table word stored where the next step fetches (log 9). -/
def State.withFetchWord (s : State) (nbits w : Nat) : State := placeFetchWord s nbits w

end Sys2Proof.Machine
end

