-- ==== Sys2Proof/Safety.lean ====
section
/-! DEFINITION. What counts as a safe step and a safe run, the invariants of the machine, and the terms in which claims say
what an instruction does and what it leaves alone. -/

namespace Sys2Proof.Machine

/-! ## Safe steps and invariants -/

/-- A safe step: a next state with `FAULT` None (60_exceptions.md rule R400). -/
def SafeStep (s t : State) : Prop := step s = .next t ∧ t.fault = none

/-- A safe run of `k` steps: every step of it is safe. -/
def SafeRun : Nat → State → Prop
  | 0, _ => True
  | k + 1, s => ∃ t, SafeStep s t ∧ SafeRun k t

/-- The IT session is well formed (10_state.md rule R27): empty exactly when no instruction remains, and otherwise
`remaining = 4 - trailingZeros(bits(state,3,0))`. -/
def ITSession.wf (x : ITSession) : Prop :=
  (x.remaining = 0 ↔ x.state = 0) ∧ (0 < x.remaining → x.remaining = 4 - trailingZeros (x.state.extractLsb' 0 4))

/-- The latch is well formed (R22, 20_memory.md rule R66): a valid latch holds an address aligned for its set, no 16-bit ARM
instruction, a 16-bit word in bits 15:0, and the set that bit T of its status value names. -/
def Latch.wf (x : Latch) : Prop :=
  x.valid = true →
    (x.mode = .arm → x.width = .w32 ∧ x.addr.extractLsb' 0 2 = 0) ∧
    (x.mode = .thumb → x.addr.getLsbD 0 = false) ∧
    (x.width = .w16 → x.raw.extractLsb' 16 16 = 0) ∧
    (flagT x.cpsr = true ↔ x.mode = .thumb)

/-- The invariant of the machine: memory in canonical form (10_state.md rule R36), a well-formed session (R27) and a
well-formed latch (R22). -/
structure State.Inv (s : State) : Prop where
  memory : Memory.wf s.mem
  session : ITSession.wf s.it
  latch : Latch.wf s.inst

/-! ## The host serves everything -/

/-- The host refuses no port target. -/
def State.served (s : State) : Prop := s.refusals = []

/-- The value an instruction reads as `R[n]`: the PC read value for 15 (10_state.md rule R29), the host's register
otherwise. -/
def State.operand (s : State) (n : RegNum) : Word := if n = 15 then s.pcValue else s.getCore n

/-- The carry flag of `CPSR_in`, the carry-in of every instruction (R31). -/
def State.carry (s : State) : Bool := flagC s.inst.cpsr

/-- A port call that writes (20_memory.md rule R60). -/
def PortCall.isWrite : PortCall → Bool
  | .writeRegister .. => true
  | .writeMemory .. => true
  | .readRegister .. => false
  | .readMemory .. => false

/-- The host's answer to a port call (R60). -/
def PortCall.ok : PortCall → Bool
  | .readRegister _ _ _ b => b
  | .writeRegister _ _ _ b => b
  | .readMemory _ _ _ _ b => b
  | .writeMemory _ _ _ _ b => b

/-- The port writes made so far, newest first: the observable of 20_memory.md rule R78 without the reads. -/
def State.writes (s : State) : List PortCall := s.trace.filter PortCall.isWrite

/-- Nothing changed but the trace, and there only successful reads were added. -/
def Untouched (s t : State) : Prop :=
  ∃ reads : List PortCall, t = { s with trace := reads ++ s.trace } ∧ ∀ c ∈ reads, c.isWrite = false ∧ c.ok = true

/-! ## What is left alone -/

/-- The block's and the host's settings that a handler other than IT's never changes. -/
structure SameBlock (s t : State) : Prop where
  params : t.params = s.params
  arch : t.arch = s.arch
  it : t.it = s.it
  inst : t.inst = s.inst
  refusals : t.refusals = s.refusals
  script : t.script = s.script
  stopped : t.stopped = s.stopped

/-- Every core register outside a list keeps its value. -/
def SameCoreBut (ds : List RegNum) (s t : State) : Prop := ∀ k, k ∉ ds → t.getCore k = s.getCore k

/-- Every extension register keeps its value. -/
def SameExt (s t : State) : Prop := ∀ k, t.getExt k = s.getExt k

/-- Every byte of memory reads as before. -/
def SameMem (s t : State) : Prop := ∀ x, Memory.read? t.mem x = Memory.read? s.mem x

/-- Every byte outside the `n` bytes from `a` on reads as before. -/
def SameMemBut (a : Word) (n : Nat) (s t : State) : Prop :=
  ∀ x, (∀ j < n, x ≠ (a + BitVec.ofNat 32 j).toNat) → Memory.read? t.mem x = Memory.read? s.mem x

/-- The status register and the instruction set keep their values. -/
def SameStatus (s t : State) : Prop := t.status = s.status ∧ t.mode = s.mode

/-! ## What is written -/

/-- The status register after `WriteFlags` (40_primitives.md rules R160, R161): N and Z from the result, C and V as given or
kept, every other bit that of `CPSR_out`. -/
def FlagsWritten (s t : State) (r : AluResult) : Prop :=
  flagN t.status = r.result.msb ∧
  flagZ t.status = (r.result == 0) ∧
  flagC t.status = r.carry.getD (flagC s.cpsrOut) ∧
  flagV t.status = r.overflow.getD (flagV s.cpsrOut) ∧
  (∀ k < 28, t.status.getLsbD k = s.cpsrOut.getLsbD k) ∧
  t.mode = s.mode

/-- The instruction set after `SelectInstrSet` (46_branch.md rule R304): the status register follows only where the set
changes. -/
def SetSelected (s t : State) (set : InstrSet) : Prop :=
  t.mode = modeOf set ∧
  t.status = if s.mode = modeOf set then s.status else setBit s.cpsrOut 5 (set == .thumb)

/-- The PC after `BranchWritePC` (R300). -/
def PcBranch (s t : State) (a : Word) : Prop :=
  t.getCore 15 = (if s.mode = .arm then a &&& 0xfffffffc else a &&& 0xfffffffe) ∧ SameStatus s t

/-- The PC after `BXWritePC` (R301). -/
def PcExchange (s t : State) (a : Word) : Prop :=
  if a.getLsbD 0 then t.getCore 15 = a &&& 0xfffffffe ∧ SetSelected s t .thumb
  else t.getCore 15 = a &&& 0xfffffffc ∧ SetSelected s t .arm

/-- The PC after `LoadWritePC` (R302). -/
def PcLoad (s t : State) (a : Word) : Prop := if 5 ≤ s.arch.version then PcExchange s t a else PcBranch s t a

/-- The PC after `ALUWritePC` (R303). -/
def PcAlu (s t : State) (a : Word) : Prop :=
  if 7 ≤ s.arch.version ∧ s.mode = .arm then PcExchange s t a else PcBranch s t a

/-- A data-processing or shift instruction that completes with this result (R162, 43_dp_arith.md rule R221): the destination
written and, where asked, the flags; with the PC as destination a PC write and no flags; nothing else. -/
def ResultDone (i : Instr) (s : State) (d : RegNum) (setflags : Bool) (r : AluResult) : Prop :=
  ∃ t, exec i s = .next t ∧ t.fault = none ∧
    (if d = 15 then PcAlu s t r.result
      else t.getCore d = r.result ∧ if setflags then FlagsWritten s t r else SameStatus s t) ∧
    SameCoreBut [d] s t ∧ SameMem s t ∧ SameExt s t ∧ SameBlock s t

/-- A compare-class instruction that completes with this result (R163): the flags written and nothing else. -/
def FlagsDone (i : Instr) (s : State) (r : AluResult) : Prop :=
  ∃ t, exec i s = .next t ∧ t.fault = none ∧ FlagsWritten s t r ∧
    SameCoreBut [] s t ∧ SameMem s t ∧ SameExt s t ∧ SameBlock s t

/-- An instruction that completes (60_exceptions.md rule R400): exec answers a next state with `FAULT` None in which `P`
holds, and the block's settings are as before. -/
def Completes (i : Instr) (s : State) (P : State → Prop) : Prop :=
  ∃ t, exec i s = .next t ∧ t.fault = none ∧ SameBlock s t ∧ P t

/-- A load (48_load_store_single.md rule R350): `R[rt]` or the PC gets the loaded word, the base its new value where there is
a writeback; nothing else is written. -/
def LoadDone (i : Instr) (s : State) (rt : RegNum) (v : Word) (wb : Option (RegNum × Word)) : Prop :=
  Completes i s fun t =>
    (if rt = 15 then PcLoad s t v else t.getCore rt = v ∧ SameStatus s t) ∧
    (∀ b ∈ wb, t.getCore b.1 = b.2) ∧
    SameCoreBut (rt :: (wb.map Prod.fst).toList) s t ∧ SameMem s t ∧ SameExt s t

/-- A store (R350): `n` bytes at `a` hold `v`, every other byte is as before; the base gets its new value where there is a
writeback; nothing else is written. -/
def StoreDone (i : Instr) (s : State) (a : Word) (n : Nat) (v : DWord) (wb : Option (RegNum × Word)) : Prop :=
  Completes i s fun t =>
    Memory.readLE t.mem a n = some v ∧ SameMemBut a n s t ∧
    (∀ b ∈ wb, t.getCore b.1 = b.2) ∧
    SameCoreBut (wb.map Prod.fst).toList s t ∧ SameStatus s t ∧ SameExt s t

/-- The words at `a`, `a + 4`, ...: each as given, or mapped with some value where it is UNKNOWN (20_memory.md rule R79). -/
def WordsAt (t : State) (a : Word) (vals : List (Option Word)) : Prop :=
  ∀ k, (h : k < vals.length) →
    match vals[k] with
    | some v => Memory.readLE t.mem (a + BitVec.ofNat 32 (4 * k)) 4 = some (v.setWidth 64)
    | none => (Memory.readLE t.mem (a + BitVec.ofNat 32 (4 * k)) 4).isSome

/-- Every word from `a` on for `n` words is mapped and holds these values. -/
def WordsMapped (s : State) (a : Word) (n : Nat) (vals : Nat → Word) : Prop :=
  ∀ k < n, Memory.readLE s.mem (a + BitVec.ofNat 32 (4 * k)) 4 = some ((vals k).setWidth 64)

/-- The bytes a register list takes, 4 for each register (42_stack.md rule R201, 47_load_store_multiple.md rule R330). -/
def listBytes (regs : BitVec 16) : Word := BitVec.ofNat 32 (4 * bitCount regs)

/-- A store of a register list at `first`, lowest register first (R201, R330): a word is UNKNOWN where the base register is
written back and is not the lowest of the list; the base `n` gets `newBase` where there is a writeback. -/
def StoreManyDone (i : Instr) (s : State) (regs : BitVec 16) (first : Word) (n : RegNum) (wback : Bool)
    (newBase : Word) : Prop :=
  Completes i s fun t =>
    WordsAt t first ((regNumbers regs).map fun r =>
      if r = n ∧ wback = true ∧ lowestSetBit regs ≠ r.toNat then none else some (s.operand r)) ∧
    SameMemBut first (4 * bitCount regs) s t ∧
    (wback = true → t.getCore n = newBase) ∧
    SameCoreBut (if wback then [n] else []) s t ∧ SameStatus s t ∧ SameExt s t

/-- A load of a register list (42_stack.md rule R202, R330): the k-th register gets the k-th word, the PC through
`LoadWritePC`; with a writeback the base `n` gets `newBase`, or an UNKNOWN value where it stands in the list. -/
def LoadManyDone (i : Instr) (s : State) (regs : BitVec 16) (vals : Nat → Word) (n : RegNum) (wback : Bool)
    (newBase : Word) : Prop :=
  Completes i s fun t =>
    (∀ k, (h : k < (regNumbers regs).length) → ¬ (wback = true ∧ (regNumbers regs)[k] = n) →
      if (regNumbers regs)[k] = 15 then PcLoad s t (vals k) else t.getCore (regNumbers regs)[k] = vals k) ∧
    (regs.getLsbD 15 = false → SameStatus s t) ∧
    (wback = true → regs.getLsbD n.toNat = false → t.getCore n = newBase) ∧
    SameCoreBut ((if wback then [n] else []) ++ regNumbers regs) s t ∧ SameMem s t ∧ SameExt s t

/-- The extension registers outside a list keep their values (10_state.md rule R34): for a D list every other D register,
for an S list every other S register and D16 to D31. -/
def SameExtBut (l : ExtList) (s t : State) : Prop :=
  if l.isDouble then ∀ n, n ∉ l.numbers → t.getExt n = s.getExt n
  else (∀ n, n ∉ l.numbers → t.regValue (.extSingle n) = s.regValue (.extSingle n)) ∧
    ∀ n : BitVec 5, 16 ≤ n.toNat → t.getExt n = s.getExt n

/-- A VPUSH (42_stack.md rule R203): the k-th register of the list stands at the k-th place below the old SP. -/
def VPushDone (i : Instr) (s : State) (l : ExtList) : Prop :=
  Completes i s fun t =>
    (∀ k, (h : k < l.numbers.length) →
      Memory.readLE t.mem (s.getCore 13 - l.bytes + BitVec.ofNat 32 (l.size * k)) l.size =
        some (s.regValue (l.reg l.numbers[k]))) ∧
    SameMemBut (s.getCore 13 - l.bytes) (l.size * l.count) s t ∧
    t.getCore 13 = s.getCore 13 - l.bytes ∧ SameCoreBut [13] s t ∧ SameStatus s t ∧ SameExt s t

/-- A VPOP (42_stack.md rule R204): the k-th register of the list gets the k-th item from the old SP on. -/
def VPopDone (i : Instr) (s : State) (l : ExtList) (vals : Nat → DWord) : Prop :=
  Completes i s fun t =>
    (∀ k, (h : k < l.numbers.length) → t.regValue (l.reg l.numbers[k]) = vals k) ∧
    SameExtBut l s t ∧ t.getCore 13 = s.getCore 13 + l.bytes ∧ SameCoreBut [13] s t ∧ SameStatus s t ∧ SameMem s t

/-! ## Short forms of the above -/

/-- A shift of `R[n]` as a result: the shifted value, the shifter's carry, the overflow kept (40_primitives.md rules R150,
R160). -/
def shifted (s : State) (n : RegNum) (ty : SRType) (amount : Nat) : AluResult :=
  .ofLogic (shiftC (s.operand n) ty amount s.carry).1 (shiftC (s.operand n) ty amount s.carry).2

/-- The address of the instruction after a 4-byte instruction, with bit 0 set in Thumb (46_branch.md rule R306). -/
def nextWide (s : State) : Word := if s.inst.mode = .arm then s.pcValue - 4 else s.pcValue ||| 1

/-- The address of the instruction after a 4-byte ARM or a 2-byte Thumb instruction, with bit 0 set in Thumb (R308,
49_svc_driver.md rule R380). -/
def nextNarrow (s : State) : Word := if s.inst.mode = .arm then s.pcValue - 4 else (s.pcValue - 2) ||| 1

/-- A branch to `a` that changes the PC and nothing else (R305). -/
def BranchDone (i : Instr) (s : State) (a : Word) : Prop :=
  Completes i s fun t => PcBranch s t a ∧ SameCoreBut [15] s t ∧ SameMem s t ∧ SameExt s t

/-- A branch that is not taken: nothing changes (R310, R311). -/
def UntakenDone (i : Instr) (s : State) : Prop :=
  Completes i s fun t => SameCoreBut [] s t ∧ SameStatus s t ∧ SameMem s t ∧ SameExt s t

/-- A branch that puts `lr` into R14 and takes the PC where `P` says; nothing else changes (R306, R307). -/
def LinkBranchDone (i : Instr) (s : State) (lr : Word) (P : State → Prop) : Prop :=
  Completes i s fun t => t.getCore 14 = lr ∧ P t ∧ SameCoreBut [15, 14] s t ∧ SameMem s t ∧ SameExt s t

/-- The other instruction set is selected and the PC is the target in it: from the PC read value to Thumb, from the aligned
PC read value to ARM (R307). -/
def PcOtherSet (s t : State) (offset : Word) : Prop :=
  if s.inst.mode = .arm then t.getCore 15 = (s.pcValue + offset) &&& 0xfffffffe ∧ SetSelected s t .thumb
  else t.getCore 15 = (align4 s.pcValue + offset) &&& 0xfffffffc ∧ SetSelected s t .arm

/-- An interworking branch to `a`, with the link address in R14 where there is one (R308, R309). -/
def RegisterBranchDone (i : Instr) (s : State) (a : Word) (lr : Option Word) : Prop :=
  Completes i s fun t =>
    PcExchange s t a ∧ (∀ v ∈ lr, t.getCore 14 = v) ∧
    SameCoreBut (if lr.isSome then [15, 14] else [15]) s t ∧ SameMem s t ∧ SameExt s t

/-- A PUSH of a list: stored from the new SP up (42_stack.md rule R201). -/
def PushDone (i : Instr) (s : State) (regs : BitVec 16) : Prop :=
  StoreManyDone i s regs (s.getCore 13 - listBytes regs) 13 true (s.getCore 13 - listBytes regs)

/-- A POP of a list: loaded from the old SP up (R202). -/
def PopDone (i : Instr) (s : State) (regs : BitVec 16) (vals : Nat → Word) : Prop :=
  LoadManyDone i s regs vals 13 true (s.getCore 13 + listBytes regs)

/-- A load of a list where its words are mapped (R330). -/
def LoadManyAt (i : Instr) (s : State) (regs : BitVec 16) (first : Word) (vals : Nat → Word) (n : RegNum) (wback : Bool)
    (newBase : Word) : Prop :=
  WordsMapped s first (bitCount regs) vals → LoadManyDone i s regs vals n wback newBase

/-- The address of a single load or store (48_load_store_single.md rule R350). -/
def indexed (index add : Bool) (base offset : Word) : Word :=
  if index then (if add then base + offset else base - offset) else base

/-- The base register a single load or store writes back and its new value, where it writes one back (R350). -/
def writeback (wback add : Bool) (n : RegNum) (base offset : Word) : Option (RegNum × Word) :=
  if wback then some (n, if add then base + offset else base - offset) else none

/-- A load where its bytes are mapped and, for the PC, the address is aligned (R350). -/
def LoadAt (i : Instr) (s : State) (rt : RegNum) (size : Nat) (a : Word) (wb : Option (RegNum × Word)) : Prop :=
  ∀ v, Memory.readLE s.mem a size = some v → (rt = 15 → a.extractLsb' 0 2 = 0) → LoadDone i s rt (v.setWidth 32) wb

/-- The instruction fails with this class after reads alone: nothing but `FAULT` and the trace changes (60_exceptions.md rules
R402, R403). -/
def StopsReading (i : Instr) (s : State) (f : Failure) : Prop :=
  ∃ calls : List PortCall, exec i s = .next { s with trace := calls ++ s.trace, fault := some f } ∧ ∀ c ∈ calls, c.isWrite = false

/-- A single load that fails (48_load_store_single.md rule R350): of the PC from a misaligned address, or from bytes that are
not all mapped. -/
def LoadStops (i : Instr) (s : State) (rt : RegNum) (size : Nat) (a : Word) : Prop :=
  (rt = 15 → a.extractLsb' 0 2 ≠ 0 → StopsReading i s .unpredictableOperands) ∧
  ((rt = 15 → a.extractLsb' 0 2 = 0) → Memory.readLE s.mem a size = none → StopsReading i s .accessFailure)

/-- A load of a list whose `j`-th word is the first that is not mapped (42_stack.md rule R202, 47_load_store_multiple.md rule
R330): it fails with `AccessFailure`, the registers loaded before it keep the words loaded, and nothing else is written; a base
that is to be written back is not. -/
def LoadManyStops (i : Instr) (s : State) (regs : BitVec 16) (first : Word) (n : RegNum) (wback : Bool) : Prop :=
  ∀ (vals : Nat → Word) (j : Nat), j < bitCount regs → WordsMapped s first j vals →
    Memory.readLE s.mem (first + BitVec.ofNat 32 (4 * j)) 4 = none →
    ∃ t, exec i s = .next t ∧ t.fault = some .accessFailure ∧
      (∀ k, (h : k < (regNumbers regs).length) → k < j → ¬ (wback = true ∧ (regNumbers regs)[k] = n) →
        t.getCore (regNumbers regs)[k] = vals k) ∧
      SameCoreBut (((regNumbers regs).take j).filter fun r => !(wback && r == n)) s t ∧
      SameStatus s t ∧ SameMem s t ∧ SameExt s t ∧ SameBlock s t

/-- A VPOP whose `j`-th item is the first that is not mapped (42_stack.md rules R200, R204): the same of extension registers. -/
def VPopStops (i : Instr) (s : State) (l : ExtList) : Prop :=
  ∀ (vals : Nat → DWord) (j : Nat), j < l.count →
    (∀ k < j, Memory.readLE s.mem (s.getCore 13 + BitVec.ofNat 32 (l.size * k)) l.size = some (vals k)) →
    Memory.readLE s.mem (s.getCore 13 + BitVec.ofNat 32 (l.size * j)) l.size = none →
    ∃ t, exec i s = .next t ∧ t.fault = some .accessFailure ∧
      (∀ k, (h : k < l.numbers.length) → k < j → t.regValue (l.reg l.numbers[k]) = vals k) ∧
      SameExtBut { l with count := j } s t ∧ SameCoreBut [] s t ∧ SameStatus s t ∧ SameMem s t ∧ SameBlock s t

/-- A store of the low bytes of `R[rt]` (R350). -/
def StoreAt (i : Instr) (s : State) (rt : RegNum) (size : Nat) (a : Word) (wb : Option (RegNum × Word)) : Prop :=
  StoreDone i s a size (lowBytes ((s.operand rt).setWidth 64) size) wb

/-- The instruction is UNPREDICTABLE here: it fails with `UnpredictableOperands`, and nothing but `FAULT` changes
(60_exceptions.md rules R402, R405). -/
def Unpredictable (i : Instr) (s : State) : Prop := exec i s = .next { s with fault := some .unpredictableOperands }

/-- The instruction is outside the subset here: it fails with `UnsupportedEncoding`, and nothing but `FAULT` changes
(R401, R405). -/
def OutsideSubset (i : Instr) (s : State) : Prop := exec i s = .next { s with fault := some .unsupportedEncoding }

/-- `MODE`, bit T of the status register and bit T of the staged status value name the same instruction set (10_state.md
rules R26, R32; 46_branch.md rule R304). -/
def ModeMatches (s : State) : Prop :=
  s.mode ≠ .invalid ∧ (flagT s.status = true ↔ s.mode = .thumb) ∧ (flagT s.cpsrOut = true ↔ s.mode = .thumb)

/-- A port call that writes core register 15 (10_state.md rule R28). -/
def PortCall.writesPC : PortCall → Bool
  | .writeRegister _ r _ _ => r == .core 15
  | .readRegister .. => false
  | .readMemory .. => false
  | .writeMemory .. => false

/-- The PUSH instructions that store a list, on the lists their rule allows (42_stack.md rule R201). -/
def PushOf (regs : BitVec 16) (i : Instr) : Prop :=
  (∃ c, i = .pushA1 c regs) ∨ (∃ c rt, i = .pushA2 c rt ∧ regs = oneReg rt) ∨
  (∃ m l, i = .pushT1 m l ∧ regs = listM8 m l) ∨ (∃ m l, i = .pushT2 m l ∧ regs = listM13 m l ∧ 2 ≤ bitCount regs) ∨
  (∃ rt, i = .pushT3 rt ∧ regs = oneReg rt)

/-- The POP instructions that load a list without the PC, on the lists their rule allows (R202). -/
def PopOf (regs : BitVec 16) (i : Instr) : Prop :=
  (∃ c, i = .popA1 c regs) ∨ (∃ c rt, i = .popA2 c rt ∧ regs = oneReg rt) ∨
  (∃ l, i = .popT1 false l ∧ regs = listP8 false l) ∨
  (∃ m l, i = .popT2 false m l ∧ regs = listPM13 false m l ∧ 2 ≤ bitCount regs) ∨ (∃ rt, i = .popT3 rt ∧ regs = oneReg rt)

/-- The VPUSH instructions of a list, on the lists their rule allows (R203). -/
def VPushOf (l : ExtList) (i : Instr) : Prop :=
  (∃ c d v n, (i = .vpushA1 c d v n ∨ i = .vpushT1 d v n) ∧ l = extListD d v n ∧ extListDBad n l = false) ∨
  ∃ c d v n, (i = .vpushA2 c d v n ∨ i = .vpushT2 d v n) ∧ l = extListS d v n ∧ extListSBad l = false

/-- The VPOP instructions of a list, on the lists their rule allows (R204). -/
def VPopOf (l : ExtList) (i : Instr) : Prop :=
  (∃ c d v n, (i = .vpopA1 c d v n ∨ i = .vpopT1 d v n) ∧ l = extListD d v n ∧ extListDBad n l = false) ∨
  ∃ c d v n, (i = .vpopA2 c d v n ∨ i = .vpopT2 d v n) ∧ l = extListS d v n ∧ extListSBad l = false

/-! ## A turn of the run loop -/

/-- The instruction set that the status register selects for the next fetch (10_state.md rule R26). -/
def State.nextSet (s : State) : InstrSet := if flagT s.status then .thumb else .arm

/-- The bytes at the PC are those of an instruction of the set the status register selects, and the PC is aligned for a
fetch (49_svc_driver.md rule R383). -/
def FetchesAt (s : State) (i : Instr) : Prop :=
  i.form.1 = s.nextSet ∧ maskPC (modeOf s.nextSet) (s.getCore 15) = s.getCore 15 ∧
  ∀ k, (h : k < (encodeBytes i).length) →
    Memory.read? s.mem (s.getCore 15 + BitVec.ofNat 32 k).toNat = some (encodeBytes i)[k]

/-- The state in which the handler of a fetched instruction starts (49_svc_driver.md rules R383, R384), with the port calls
of the fetch as given. -/
def State.fetched (s : State) (i : Instr) (reads : List PortCall) : State :=
  { s with
    mode := modeOf s.nextSet
    inst := { valid := false, raw := encode i, width := i.form.2, mode := s.nextSet, addr := s.getCore 15, cpsr := s.status }
    fault := none
    pcWritten := false
    cpsrOut := s.status
    trace := reads ++ s.trace }

/-- What follows a handler that ended normally, or a condition that failed, where the host refuses nothing: the PC advance
unless the PC was written or `AUTO_ADVANCE_PC` is off, then the IT advance (rules R389, R390). -/
def State.retired (t : State) (wasInIT : Bool) : State :=
  let next : Word := t.inst.addr + BitVec.ofNat 32 (if t.inst.width = .w16 then 2 else 4)
  let u :=
    if t.params.autoAdvancePc = true ∧ t.pcWritten = false then
      { t.setCore 15 next with
        pcWritten := true
        trace := .writeRegister .advancePC (.core 15) (next.setWidth 64) true :: t.trace }
    else t
  { u with it := if wasInIT then itAdvance t.it else t.it, fault := none, stopped := false }

end Sys2Proof.Machine
end

