-- ==== Sys2Proof/Certificates/Slice0/Obligations.lean ====
section
/-! DEFINITION. The statements for the provers. Their terms (`ResultDone`, `LoadAt`, `Completes`, ...) are those of
Sys2Proof/Safety.lean. The statements about one instruction are of `exec`, stage Execute (49_svc_driver.md rule R387); what a
step adds around it is the statement `StepRunsTheDecodedInstruction`. -/

section

open Sys2Proof Sys2Proof.Machine

/-- ADC, ADD, SUB, RSB and RSC (immediate), encoding A1 (43_dp_arith.md rules R220 to R222, R224, R227, R230, R232): result,
flags, PC form and frame. -/
def Obligations.ArmArithmeticImmediate : Prop :=
  ∀ s : State, s.served → ∀ (cond : BitVec 4) (setS : Bool) (rn rd : BitVec 4) (imm12 : BitVec 12),
    let x := s.operand rn;
    let y := (armExpandImmC imm12 s.carry).1;
    ResultDone (.adcImmA1 cond setS rn rd imm12) s rd setS (.ofAdd (addWithCarry x y s.carry)) ∧
    ResultDone (.addImmA1 cond setS rn rd imm12) s rd setS (.ofAdd (addWithCarry x y false)) ∧
    ResultDone (.subImmA1 cond setS rn rd imm12) s rd setS (.ofAdd (addWithCarry x (~~~y) true)) ∧
    ResultDone (.rsbImmA1 cond setS rn rd imm12) s rd setS (.ofAdd (addWithCarry (~~~x) y true)) ∧
    ResultDone (.rscImmA1 cond setS rn rd imm12) s rd setS (.ofAdd (addWithCarry (~~~x) y s.carry))

/-- ADC, ADD, SUB, RSB and RSC (register), encoding A1 (43_dp_arith.md rules R220, R221). -/
def Obligations.ArmArithmeticRegister : Prop :=
  ∀ s : State, s.served → ∀ (cond : BitVec 4) (setS : Bool) (rn rd : BitVec 4) (imm5 : BitVec 5) (ty : BitVec 2) (rm : BitVec 4),
    let x := s.operand rn;
    let y := shift (s.operand rm) (decodeImmShift ty imm5).1 (decodeImmShift ty imm5).2 s.carry;
    ResultDone (.adcRegA1 cond setS rn rd imm5 ty rm) s rd setS (.ofAdd (addWithCarry x y s.carry)) ∧
    ResultDone (.addRegA1 cond setS rn rd imm5 ty rm) s rd setS (.ofAdd (addWithCarry x y false)) ∧
    ResultDone (.subRegA1 cond setS rn rd imm5 ty rm) s rd setS (.ofAdd (addWithCarry x (~~~y) true)) ∧
    ResultDone (.rsbRegA1 cond setS rn rd imm5 ty rm) s rd setS (.ofAdd (addWithCarry (~~~x) y true)) ∧
    ResultDone (.rscRegA1 cond setS rn rd imm5 ty rm) s rd setS (.ofAdd (addWithCarry (~~~x) y s.carry))

/-- AND, ORR, EOR and MVN, immediate and register, encoding A1 (44_dp_logic.md rules R250 to R257; 43_dp_arith.md rule R221). -/
def Obligations.ArmLogical : Prop :=
  ∀ s : State, s.served → ∀ (cond : BitVec 4) (setS : Bool) (rn rd : BitVec 4),
    (∀ imm12 : BitVec 12,
      let x := s.operand rn;
      let y := armExpandImmC imm12 s.carry;
      ResultDone (.andImmA1 cond setS rn rd imm12) s rd setS (.ofLogic (x &&& y.1) y.2) ∧
      ResultDone (.orrImmA1 cond setS rn rd imm12) s rd setS (.ofLogic (x ||| y.1) y.2) ∧
      ResultDone (.eorImmA1 cond setS rn rd imm12) s rd setS (.ofLogic (x ^^^ y.1) y.2) ∧
      ResultDone (.mvnImmA1 cond setS rd imm12) s rd setS (.ofLogic (~~~y.1) y.2)) ∧
    (∀ (imm5 : BitVec 5) (ty : BitVec 2) (rm : BitVec 4),
      let x := s.operand rn;
      let y := shiftC (s.operand rm) (decodeImmShift ty imm5).1 (decodeImmShift ty imm5).2 s.carry;
      ResultDone (.andRegA1 cond setS rn rd imm5 ty rm) s rd setS (.ofLogic (x &&& y.1) y.2) ∧
      ResultDone (.orrRegA1 cond setS rn rd imm5 ty rm) s rd setS (.ofLogic (x ||| y.1) y.2) ∧
      ResultDone (.eorRegA1 cond setS rn rd imm5 ty rm) s rd setS (.ofLogic (x ^^^ y.1) y.2) ∧
      ResultDone (.mvnRegA1 cond setS rd imm5 ty rm) s rd setS (.ofLogic (~~~y.1) y.2))

/-- CMP, CMN, TST and TEQ, immediate and register, encoding A1 (43_dp_arith.md rules R234 to R237, 44_dp_logic.md rules R258 to
R261, 40_primitives.md rule R163). -/
def Obligations.ArmCompares : Prop :=
  ∀ s : State, s.served → ∀ (cond rn : BitVec 4),
    (∀ imm12 : BitVec 12,
      let x := s.operand rn;
      let y := armExpandImmC imm12 s.carry;
      FlagsDone (.cmpImmA1 cond rn imm12) s (.ofAdd (addWithCarry x (~~~y.1) true)) ∧
      FlagsDone (.cmnImmA1 cond rn imm12) s (.ofAdd (addWithCarry x y.1 false)) ∧
      FlagsDone (.tstImmA1 cond rn imm12) s (.ofLogic (x &&& y.1) y.2) ∧
      FlagsDone (.teqImmA1 cond rn imm12) s (.ofLogic (x ^^^ y.1) y.2)) ∧
    (∀ (imm5 : BitVec 5) (ty : BitVec 2) (rm : BitVec 4),
      let x := s.operand rn;
      let y := shiftC (s.operand rm) (decodeImmShift ty imm5).1 (decodeImmShift ty imm5).2 s.carry;
      FlagsDone (.cmpRegA1 cond rn imm5 ty rm) s (.ofAdd (addWithCarry x (~~~y.1) true)) ∧
      FlagsDone (.cmnRegA1 cond rn imm5 ty rm) s (.ofAdd (addWithCarry x y.1 false)) ∧
      FlagsDone (.tstRegA1 cond rn imm5 ty rm) s (.ofLogic (x &&& y.1) y.2) ∧
      FlagsDone (.teqRegA1 cond rn imm5 ty rm) s (.ofLogic (x ^^^ y.1) y.2))

/-- The 16-bit Thumb ADC, ADD, SUB and RSB (43_dp_arith.md rule R220; 41_condition_it.md rule R179): flags are set outside an
IT block and only there. -/
def Obligations.Thumb16Arithmetic : Prop :=
  ∀ s : State, s.served → ∀ (rm rn rd rdn imm3 : BitVec 3) (imm8 : BitVec 8),
    (let x := s.operand (lowReg rn);
      let y := s.operand (lowReg rm);
      let y3 : Word := imm3.setWidth 32;
      let y0 : Word := 0;
      ResultDone (.addRegT1 rm rn rd) s (lowReg rd) (!s.inITBlock) (.ofAdd (addWithCarry x y false)) ∧
      ResultDone (.subRegT1 rm rn rd) s (lowReg rd) (!s.inITBlock) (.ofAdd (addWithCarry x (~~~y) true)) ∧
      ResultDone (.addImmT1 imm3 rn rd) s (lowReg rd) (!s.inITBlock) (.ofAdd (addWithCarry x y3 false)) ∧
      ResultDone (.subImmT1 imm3 rn rd) s (lowReg rd) (!s.inITBlock) (.ofAdd (addWithCarry x (~~~y3) true)) ∧
      ResultDone (.rsbImmT1 rn rd) s (lowReg rd) (!s.inITBlock) (.ofAdd (addWithCarry (~~~x) y0 true))) ∧
    (let x := s.operand (lowReg rdn);
      let y := s.operand (lowReg rm);
      let y8 : Word := imm8.setWidth 32;
      ResultDone (.adcRegT1 rm rdn) s (lowReg rdn) (!s.inITBlock) (.ofAdd (addWithCarry x y s.carry)) ∧
      ResultDone (.addImmT2 rdn imm8) s (lowReg rdn) (!s.inITBlock) (.ofAdd (addWithCarry x y8 false)) ∧
      ResultDone (.subImmT2 rdn imm8) s (lowReg rdn) (!s.inITBlock) (.ofAdd (addWithCarry x (~~~y8) true)))

/-- The 16-bit Thumb AND, EOR, ORR and MVN (44_dp_logic.md rules R251, R253, R255, R257; 43_dp_arith.md rule R220). -/
def Obligations.Thumb16Logical : Prop :=
  ∀ s : State, s.served → ∀ rm rd : BitVec 3,
    let x := s.operand (lowReg rd);
    let y := s.operand (lowReg rm);
    ResultDone (.andRegT1 rm rd) s (lowReg rd) (!s.inITBlock) (.ofLogic (x &&& y) s.carry) ∧
    ResultDone (.eorRegT1 rm rd) s (lowReg rd) (!s.inITBlock) (.ofLogic (x ^^^ y) s.carry) ∧
    ResultDone (.orrRegT1 rm rd) s (lowReg rd) (!s.inITBlock) (.ofLogic (x ||| y) s.carry) ∧
    ResultDone (.mvnRegT1 rm rd) s (lowReg rd) (!s.inITBlock) (.ofLogic (~~~y) s.carry)

/-- The 16-bit Thumb CMP, CMN and TST (43_dp_arith.md rules R234, R235, R237, 44_dp_logic.md rule R259): flags are written inside
an IT block too. -/
def Obligations.Thumb16Compares : Prop :=
  ∀ s : State, s.served →
    (∀ rm rn : BitVec 3,
      let x := s.operand (lowReg rn);
      let y := s.operand (lowReg rm);
      FlagsDone (.cmpRegT1 rm rn) s (.ofAdd (addWithCarry x (~~~y) true)) ∧
      FlagsDone (.cmnRegT1 rm rn) s (.ofAdd (addWithCarry x y false)) ∧
      FlagsDone (.tstRegT1 rm rn) s (.ofLogic (x &&& y) s.carry)) ∧
    (∀ (rn : BitVec 3) (imm8 : BitVec 8),
      let x := s.operand (lowReg rn);
      let y : Word := imm8.setWidth 32;
      FlagsDone (.cmpImmT1 rn imm8) s (.ofAdd (addWithCarry x (~~~y) true))) ∧
    (∀ (nbit : BitVec 1) (rm : BitVec 4) (rn : BitVec 3),
      ¬ ((splitReg nbit rn).toNat < 8 ∧ rm.toNat < 8) → splitReg nbit rn ≠ 15 → rm ≠ 15 →
      let x := s.operand (splitReg nbit rn);
      let y := s.operand rm;
      FlagsDone (.cmpRegT2 nbit rm rn) s (.ofAdd (addWithCarry x (~~~y) true)))

/-- ADD and SUB (SP plus or minus immediate) and ADD (register) T2 (43_dp_arith.md rules R225, R226, R229): no flags. -/
def Obligations.ThumbSpAndHighRegisterAdds : Prop :=
  ∀ s : State, s.served →
    (∀ (rd : BitVec 3) (imm8 : BitVec 8),
      let x := s.operand 13;
      let y : Word := imm8.setWidth 32 * 4;
      ResultDone (.addSpImmT1 rd imm8) s (lowReg rd) false (.ofAdd (addWithCarry x y false))) ∧
    (∀ imm7 : BitVec 7,
      let x := s.operand 13;
      let y : Word := imm7.setWidth 32 * 4;
      ResultDone (.addSpImmT2 imm7) s 13 false (.ofAdd (addWithCarry x y false)) ∧
      ResultDone (.subSpImmT1 imm7) s 13 false (.ofAdd (addWithCarry x (~~~y) true))) ∧
    (∀ (dn : BitVec 1) (rm : BitVec 4) (rdn : BitVec 3),
      (splitReg dn rdn = 15 → rm ≠ 15 ∧ (s.inITBlock = true → s.lastInITBlock = true)) →
      let x := s.operand (splitReg dn rdn);
      let y := s.operand rm;
      ResultDone (.addRegT2 dn rm rdn) s (splitReg dn rdn) false (.ofAdd (addWithCarry x y false)))

/-- The 32-bit Thumb data-processing instructions with an immediate (43_dp_arith.md rules R220 to R224, R227, R230; 44_dp_logic.md
rules R250, R252, R254, R256), on the operands their rules allow. -/
def Obligations.Thumb32Immediate : Prop :=
  ∀ s : State, s.served → ∀ (i1 : BitVec 1) (setS : Bool) (rn rd : BitVec 4) (imm3 : BitVec 3) (imm8 : BitVec 8),
    (∀ e, thumbExpandImmC (i1 ++ imm3 ++ imm8) s.carry = some e →
      let x := s.operand rn;
      let y := e.1;
      (badReg rd = false → badReg rn = false →
        ResultDone (.adcImmT1 i1 setS rn imm3 rd imm8) s rd setS (.ofAdd (addWithCarry x y s.carry)) ∧
        ResultDone (.rsbImmT2 i1 setS rn imm3 rd imm8) s rd setS (.ofAdd (addWithCarry (~~~x) y true))) ∧
      ((if rn = 13 then rd ≠ 15 else rd ≠ 13 ∧ rd ≠ 15 ∧ rn ≠ 15) →
        ResultDone (.addImmT3 i1 setS rn imm3 rd imm8) s rd setS (.ofAdd (addWithCarry x y false)) ∧
        ResultDone (.subImmT3 i1 setS rn imm3 rd imm8) s rd setS (.ofAdd (addWithCarry x (~~~y) true))) ∧
      (badReg rd = false → badReg rn = false →
        ResultDone (.andImmT1 i1 setS rn imm3 rd imm8) s rd setS (.ofLogic (x &&& y) e.2) ∧
        ResultDone (.orrImmT1 i1 setS rn imm3 rd imm8) s rd setS (.ofLogic (x ||| y) e.2) ∧
        ResultDone (.eorImmT1 i1 setS rn imm3 rd imm8) s rd setS (.ofLogic (x ^^^ y) e.2)) ∧
      (badReg rd = false → ResultDone (.mvnImmT1 i1 setS imm3 rd imm8) s rd setS (.ofLogic (~~~y) e.2))) ∧
    (rn ≠ 15 → (if rn = 13 then rd ≠ 15 else badReg rd = false) →
      let x := s.operand rn;
      let y : Word := (i1 ++ imm3 ++ imm8).setWidth 32;
      ResultDone (.addImmT4 i1 rn imm3 rd imm8) s rd false (.ofAdd (addWithCarry x y false)) ∧
      ResultDone (.subImmT4 i1 rn imm3 rd imm8) s rd false (.ofAdd (addWithCarry x (~~~y) true)))

/-- The 32-bit Thumb data-processing instructions with a shifted register (43_dp_arith.md rules R220, R221, R223, R225, R228, R231;
44_dp_logic.md rules R251, R253, R255, R257), on the operands their rules allow. -/
def Obligations.Thumb32Register : Prop :=
  ∀ s : State, s.served → ∀ (setS : Bool) (rn rd rm : BitVec 4) (imm3 : BitVec 3) (imm2 ty : BitVec 2),
    let sh := decodeImmShift ty (imm3 ++ imm2);
    let x := s.operand rn;
    let y := shiftC (s.operand rm) sh.1 sh.2 s.carry;
    (badReg rd = false → badReg rn = false → badReg rm = false →
      ResultDone (.adcRegT2 setS rn imm3 rd imm2 ty rm) s rd setS (.ofAdd (addWithCarry x y.1 s.carry)) ∧
      ResultDone (.rsbRegT1 setS rn imm3 rd imm2 ty rm) s rd setS (.ofAdd (addWithCarry (~~~x) y.1 true)) ∧
      ResultDone (.andRegT2 setS rn imm3 rd imm2 ty rm) s rd setS (.ofLogic (x &&& y.1) y.2) ∧
      ResultDone (.orrRegT2 setS rn imm3 rd imm2 ty rm) s rd setS (.ofLogic (x ||| y.1) y.2) ∧
      ResultDone (.eorRegT2 setS rn imm3 rd imm2 ty rm) s rd setS (.ofLogic (x ^^^ y.1) y.2)) ∧
    (badReg rd = false → badReg rm = false → ResultDone (.mvnRegT2 setS imm3 rd imm2 ty rm) s rd setS (.ofLogic (~~~y.1) y.2)) ∧
    (badReg rm = false → rd ≠ 15 →
      (if rn = 13 then rd = 13 → sh.1 = .lsl ∧ sh.2 ≤ 3 else rd ≠ 13 ∧ rn ≠ 15) →
      ResultDone (.addRegT3 setS rn imm3 rd imm2 ty rm) s rd setS (.ofAdd (addWithCarry x y.1 false)) ∧
      ResultDone (.subRegT2 setS rn imm3 rd imm2 ty rm) s rd setS (.ofAdd (addWithCarry x (~~~y.1) true)))

/-- The 32-bit Thumb CMP, CMN, TST and TEQ (43_dp_arith.md rules R234 to R237; 44_dp_logic.md rules R258 to R261). -/
def Obligations.Thumb32Compares : Prop :=
  ∀ s : State, s.served → ∀ (i1 : BitVec 1) (rn rm : BitVec 4) (imm3 : BitVec 3) (imm8 : BitVec 8) (imm2 ty : BitVec 2),
    let x := s.operand rn;
    (∀ e, thumbExpandImmC (i1 ++ imm3 ++ imm8) s.carry = some e →
      let y := e;
      (rn ≠ 15 →
        FlagsDone (.cmpImmT2 i1 rn imm3 imm8) s (.ofAdd (addWithCarry x (~~~y.1) true)) ∧
        FlagsDone (.cmnImmT1 i1 rn imm3 imm8) s (.ofAdd (addWithCarry x y.1 false))) ∧
      (badReg rn = false →
        FlagsDone (.tstImmT1 i1 rn imm3 imm8) s (.ofLogic (x &&& y.1) y.2) ∧
        FlagsDone (.teqImmT1 i1 rn imm3 imm8) s (.ofLogic (x ^^^ y.1) y.2))) ∧
    (let y := shiftC (s.operand rm) (decodeImmShift ty (imm3 ++ imm2)).1 (decodeImmShift ty (imm3 ++ imm2)).2 s.carry;
      badReg rm = false →
      (rn ≠ 15 →
        FlagsDone (.cmpRegT3 rn imm3 imm2 ty rm) s (.ofAdd (addWithCarry x (~~~y.1) true)) ∧
        FlagsDone (.cmnRegT2 rn imm3 imm2 ty rm) s (.ofAdd (addWithCarry x y.1 false))) ∧
      (badReg rn = false →
        FlagsDone (.tstRegT2 rn imm3 imm2 ty rm) s (.ofLogic (x &&& y.1) y.2) ∧
        FlagsDone (.teqRegT1 rn imm3 imm2 ty rm) s (.ofLogic (x ^^^ y.1) y.2)))

/-- The ARM shifts and rotates (45_shift_rotate.md rules R280 to R289; 30_encoding.md rules R107, R108). -/
def Obligations.ArmShifts : Prop :=
  ∀ s : State, s.served → ∀ (cond : BitVec 4) (setS : Bool) (rd rm rn : BitVec 4) (imm5 : BitVec 5),
    ResultDone (.lslImmA1 cond setS rd imm5 rm) s rd setS (shifted s rm (decodeImmShift 0 imm5).1 (decodeImmShift 0 imm5).2) ∧
    ResultDone (.lsrImmA1 cond setS rd imm5 rm) s rd setS (shifted s rm (decodeImmShift 1 imm5).1 (decodeImmShift 1 imm5).2) ∧
    ResultDone (.asrImmA1 cond setS rd imm5 rm) s rd setS (shifted s rm (decodeImmShift 2 imm5).1 (decodeImmShift 2 imm5).2) ∧
    ResultDone (.rorImmA1 cond setS rd imm5 rm) s rd setS (shifted s rm (decodeImmShift 3 imm5).1 (decodeImmShift 3 imm5).2) ∧
    ResultDone (.rrxA1 cond setS rd rm) s rd setS (shifted s rm .rrx 1) ∧
    (rd ≠ 15 → rn ≠ 15 → rm ≠ 15 →
      let n := (s.operand rm &&& 0xff).toNat;
      ResultDone (.lslRegA1 cond setS rd rm rn) s rd setS (shifted s rn .lsl n) ∧
      ResultDone (.lsrRegA1 cond setS rd rm rn) s rd setS (shifted s rn .lsr n) ∧
      ResultDone (.asrRegA1 cond setS rd rm rn) s rd setS (shifted s rn .asr n) ∧
      ResultDone (.rorRegA1 cond setS rd rm rn) s rd setS (shifted s rn .ror n))

/-- The 16-bit Thumb shifts (45_shift_rotate.md rules R280 to R288): LSL by an immediate 0 inside an IT block is left out, as
rule R283 says. -/
def Obligations.Thumb16Shifts : Prop :=
  ∀ s : State, s.served → ∀ (rm rd : BitVec 3) (imm5 : BitVec 5),
    let f := !s.inITBlock;
    let n := (s.operand (lowReg rm) &&& 0xff).toNat;
    ResultDone (.lsrImmT1 imm5 rm rd) s (lowReg rd) f (shifted s (lowReg rm) (decodeImmShift 1 imm5).1 (decodeImmShift 1 imm5).2) ∧
    ResultDone (.asrImmT1 imm5 rm rd) s (lowReg rd) f (shifted s (lowReg rm) (decodeImmShift 2 imm5).1 (decodeImmShift 2 imm5).2) ∧
    ((imm5 = 0 → s.inITBlock = false) →
      ResultDone (.lslImmT1 imm5 rm rd) s (lowReg rd) f (shifted s (lowReg rm) .lsl imm5.toNat)) ∧
    ResultDone (.lslRegT1 rm rd) s (lowReg rd) f (shifted s (lowReg rd) .lsl n) ∧
    ResultDone (.lsrRegT1 rm rd) s (lowReg rd) f (shifted s (lowReg rd) .lsr n) ∧
    ResultDone (.asrRegT1 rm rd) s (lowReg rd) f (shifted s (lowReg rd) .asr n) ∧
    ResultDone (.rorRegT1 rm rd) s (lowReg rd) f (shifted s (lowReg rd) .ror n)

/-- The 32-bit Thumb shifts (45_shift_rotate.md rules R280 to R289). -/
def Obligations.Thumb32Shifts : Prop :=
  ∀ s : State, s.served → ∀ (setS : Bool) (rd rm rn : BitVec 4) (imm3 : BitVec 3) (imm2 : BitVec 2),
    badReg rd = false → badReg rm = false →
    ResultDone (.lslImmT2 setS imm3 rd imm2 rm) s rd setS (shifted s rm (decodeImmShift 0 (imm3 ++ imm2)).1 (decodeImmShift 0 (imm3 ++ imm2)).2) ∧
    ResultDone (.lsrImmT2 setS imm3 rd imm2 rm) s rd setS (shifted s rm (decodeImmShift 1 (imm3 ++ imm2)).1 (decodeImmShift 1 (imm3 ++ imm2)).2) ∧
    ResultDone (.asrImmT2 setS imm3 rd imm2 rm) s rd setS (shifted s rm (decodeImmShift 2 (imm3 ++ imm2)).1 (decodeImmShift 2 (imm3 ++ imm2)).2) ∧
    ResultDone (.rorImmT1 setS imm3 rd imm2 rm) s rd setS (shifted s rm (decodeImmShift 3 (imm3 ++ imm2)).1 (decodeImmShift 3 (imm3 ++ imm2)).2) ∧
    ResultDone (.rrxT1 setS rd rm) s rd setS (shifted s rm .rrx 1) ∧
    (badReg rn = false →
      let n := (s.operand rm &&& 0xff).toNat;
      ResultDone (.lslRegT2 setS rn rd rm) s rd setS (shifted s rn .lsl n) ∧
      ResultDone (.lsrRegT2 setS rn rd rm) s rd setS (shifted s rn .lsr n) ∧
      ResultDone (.asrRegT2 setS rn rd rm) s rd setS (shifted s rn .asr n) ∧
      ResultDone (.rorRegT2 setS rn rd rm) s rd setS (shifted s rn .ror n))

/-- B, all encodings (46_branch.md rule R305). -/
def Obligations.Branches : Prop :=
  ∀ s : State, s.served →
    (∀ (cond : BitVec 4) (imm24 : BitVec 24), BranchDone (.bA1 cond imm24) s (s.pcValue + (imm24 ++ 0#2).signExtend 32)) ∧
    (s.inITBlock = false →
      (∀ (cond : BitVec 4) (imm8 : BitVec 8), cond ≠ 14 →
        BranchDone (.bT1 cond imm8) s (s.pcValue + (imm8 ++ 0#1).signExtend 32)) ∧
      (∀ (sgn : BitVec 1) (cond : BitVec 4) (imm6 : BitVec 6) (j1 j2 : BitVec 1) (imm11 : BitVec 11), cond.toNat < 14 →
        BranchDone (.bT3 sgn cond imm6 j1 j2 imm11) s
          (s.pcValue + (sgn ++ j2 ++ j1 ++ imm6 ++ imm11 ++ 0#1).signExtend 32))) ∧
    ((s.inITBlock = true → s.lastInITBlock = true) →
      (∀ imm11 : BitVec 11, BranchDone (.bT2 imm11) s (s.pcValue + (imm11 ++ 0#1).signExtend 32)) ∧
      (∀ (sgn : BitVec 1) (imm10 : BitVec 10) (j1 j2 : BitVec 1) (imm11 : BitVec 11),
        BranchDone (.bT4 sgn imm10 j1 j2 imm11) s
          (s.pcValue + (sgn ++ ~~~(j1 ^^^ sgn) ++ ~~~(j2 ^^^ sgn) ++ imm10 ++ imm11 ++ 0#1).signExtend 32)))

/-- BL (immediate) and BLX (immediate), both encodings (46_branch.md rules R306, R307). -/
def Obligations.BranchesWithLink : Prop :=
  ∀ s : State, s.served →
    (∀ (cond : BitVec 4) (imm24 : BitVec 24), LinkBranchDone (.blImmA1 cond imm24) s (nextWide s)
      fun t => PcBranch s t (s.pcValue + (imm24 ++ 0#2).signExtend 32)) ∧
    (∀ (h : BitVec 1) (imm24 : BitVec 24), LinkBranchDone (.blxImmA2 h imm24) s (nextWide s)
      fun t => PcOtherSet s t ((imm24 ++ h ++ 0#1).signExtend 32)) ∧
    ((s.inITBlock = true → s.lastInITBlock = true) → ∀ (sgn : BitVec 1) (imm10 : BitVec 10) (j1 j2 : BitVec 1),
      (∀ imm11 : BitVec 11, LinkBranchDone (.blImmT1 sgn imm10 j1 j2 imm11) s (nextWide s)
        fun t => PcBranch s t (s.pcValue + (sgn ++ ~~~(j1 ^^^ sgn) ++ ~~~(j2 ^^^ sgn) ++ imm10 ++ imm11 ++ 0#1).signExtend 32)) ∧
      (∀ imm10l : BitVec 10, LinkBranchDone (.blxImmT2 sgn imm10 j1 j2 imm10l 0) s (nextWide s)
        fun t => PcOtherSet s t ((sgn ++ ~~~(j1 ^^^ sgn) ++ ~~~(j2 ^^^ sgn) ++ imm10 ++ imm10l ++ 0#2).signExtend 32)))

/-- BX and BLX (register), both encodings (46_branch.md rules R308, R309): the target is read before LR is written. -/
def Obligations.BranchesToRegister : Prop :=
  ∀ s : State, s.served →
    (∀ cond rm : BitVec 4,
      RegisterBranchDone (.bxA1 cond rm) s (s.operand rm) none ∧
      (rm ≠ 15 → RegisterBranchDone (.blxRegA1 cond rm) s (s.operand rm) (some (nextNarrow s)))) ∧
    ((s.inITBlock = true → s.lastInITBlock = true) → ∀ rm : BitVec 4,
      RegisterBranchDone (.bxT1 rm) s (s.operand rm) none ∧
      (rm ≠ 15 → RegisterBranchDone (.blxRegT1 rm) s (s.operand rm) (some (nextNarrow s))))

/-- CBZ, CBNZ (46_branch.md rules R310, R311) and TBB, TBH (R312, R313). -/
def Obligations.CompareAndTableBranches : Prop :=
  ∀ s : State, s.served →
    (s.inITBlock = false → ∀ (i1 : BitVec 1) (imm5 : BitVec 5) (rn : BitVec 3),
      let target := s.pcValue + (i1 ++ imm5 ++ 0#1).setWidth 32;
      (s.operand (lowReg rn) = 0 →
        BranchDone (.cbzT1 i1 imm5 rn) s target ∧ UntakenDone (.cbnzT1 i1 imm5 rn) s) ∧
      (s.operand (lowReg rn) ≠ 0 →
        BranchDone (.cbnzT1 i1 imm5 rn) s target ∧ UntakenDone (.cbzT1 i1 imm5 rn) s)) ∧
    ((s.inITBlock = true → s.lastInITBlock = true) → ∀ rn rm : BitVec 4, rn ≠ 13 → badReg rm = false → ∀ v : DWord,
      (Memory.readLE s.mem (s.operand rn + s.operand rm) 1 = some v →
        BranchDone (.tbbT1 rn rm) s (s.pcValue + 2 * v.setWidth 32)) ∧
      (Memory.readLE s.mem (s.operand rn + s.operand rm <<< 1) 2 = some v →
        BranchDone (.tbhT1 rn rm) s (s.pcValue + 2 * v.setWidth 32)))

/-- PUSH, all encodings (42_stack.md rules R200, R201). -/
def Obligations.Pushes : Prop :=
  ∀ s : State, s.served →
    (∀ (cond : BitVec 4) (regs : BitVec 16), bitCount regs ≠ 0 → PushDone (.pushA1 cond regs) s regs) ∧
    (∀ cond rt : BitVec 4, rt ≠ 13 → PushDone (.pushA2 cond rt) s (oneReg rt)) ∧
    (∀ (m : Bool) (regs : BitVec 8), bitCount (listM8 m regs) ≠ 0 → PushDone (.pushT1 m regs) s (listM8 m regs)) ∧
    (∀ (m : Bool) (regs : BitVec 13), 2 ≤ bitCount (listM13 m regs) → PushDone (.pushT2 m regs) s (listM13 m regs)) ∧
    (∀ rt : BitVec 4, rt ≠ 13 → rt ≠ 15 → PushDone (.pushT3 rt) s (oneReg rt))

/-- POP, all encodings (42_stack.md rules R200, R202). -/
def Obligations.Pops : Prop :=
  ∀ s : State, s.served → ∀ vals : Nat → Word,
    (∀ (cond : BitVec 4) (regs : BitVec 16), bitCount regs ≠ 0 → (regs.getLsbD 13 = true → s.arch.version < 7) →
      WordsMapped s (s.getCore 13) (bitCount regs) vals → PopDone (.popA1 cond regs) s regs vals) ∧
    (∀ cond rt : BitVec 4, rt ≠ 13 → WordsMapped s (s.getCore 13) 1 vals → PopDone (.popA2 cond rt) s (oneReg rt) vals) ∧
    (∀ (p : Bool) (regs : BitVec 8), bitCount (listP8 p regs) ≠ 0 →
      (p = true → s.inITBlock = true → s.lastInITBlock = true) →
      WordsMapped s (s.getCore 13) (bitCount (listP8 p regs)) vals → PopDone (.popT1 p regs) s (listP8 p regs) vals) ∧
    (∀ (p m : Bool) (regs : BitVec 13), 2 ≤ bitCount (listPM13 p m regs) → (p && m) = false →
      (p = true → s.inITBlock = true → s.lastInITBlock = true) →
      WordsMapped s (s.getCore 13) (bitCount (listPM13 p m regs)) vals →
      PopDone (.popT2 p m regs) s (listPM13 p m regs) vals) ∧
    (∀ rt : BitVec 4, rt ≠ 13 → (rt = 15 → s.inITBlock = true → s.lastInITBlock = true) →
      WordsMapped s (s.getCore 13) 1 vals → PopDone (.popT3 rt) s (oneReg rt) vals)

/-- VPUSH of D and S lists, ARM and Thumb (42_stack.md rule R203). -/
def Obligations.ExtensionPushes : Prop :=
  ∀ s : State, s.served → ∀ (cond : BitVec 4) (dbit : BitVec 1) (vd : BitVec 4) (imm8 : BitVec 8),
    (imm8.getLsbD 0 = false → 0 < imm8.toNat / 2 → imm8.toNat / 2 ≤ 16 → (dbit ++ vd).toNat + imm8.toNat / 2 ≤ 32 →
      VPushDone (.vpushA1 cond dbit vd imm8) s (extListD dbit vd imm8) ∧
      VPushDone (.vpushT1 dbit vd imm8) s (extListD dbit vd imm8)) ∧
    (0 < imm8.toNat → (vd ++ dbit).toNat + imm8.toNat ≤ 32 →
      VPushDone (.vpushA2 cond dbit vd imm8) s (extListS dbit vd imm8) ∧
      VPushDone (.vpushT2 dbit vd imm8) s (extListS dbit vd imm8))

/-- VPOP of D and S lists, ARM and Thumb (42_stack.md rule R204). -/
def Obligations.ExtensionPops : Prop :=
  ∀ s : State, s.served → ∀ (cond : BitVec 4) (dbit : BitVec 1) (vd : BitVec 4) (imm8 : BitVec 8) (vals : Nat → DWord),
    (imm8.getLsbD 0 = false → 0 < imm8.toNat / 2 → imm8.toNat / 2 ≤ 16 → (dbit ++ vd).toNat + imm8.toNat / 2 ≤ 32 →
      (∀ k < imm8.toNat / 2, Memory.readLE s.mem (s.getCore 13 + BitVec.ofNat 32 (8 * k)) 8 = some (vals k)) →
      VPopDone (.vpopA1 cond dbit vd imm8) s (extListD dbit vd imm8) vals ∧
      VPopDone (.vpopT1 dbit vd imm8) s (extListD dbit vd imm8) vals) ∧
    (0 < imm8.toNat → (vd ++ dbit).toNat + imm8.toNat ≤ 32 →
      (∀ k < imm8.toNat, Memory.readLE s.mem (s.getCore 13 + BitVec.ofNat 32 (4 * k)) 4 = some (vals k)) →
      VPopDone (.vpopA2 cond dbit vd imm8) s (extListS dbit vd imm8) vals ∧
      VPopDone (.vpopT2 dbit vd imm8) s (extListS dbit vd imm8) vals)

/-- LDM, LDMDA, LDMDB, LDMIB, all encodings (47_load_store_multiple.md rules R330 to R334). -/
def Obligations.LoadMultiples : Prop :=
  ∀ s : State, s.served → ∀ (vals : Nat → Word) (w : Bool),
    (∀ (cond rn : BitVec 4) (regs : BitVec 16), rn ≠ 15 → bitCount regs ≠ 0 →
      (w = true → regs.getLsbD rn.toNat = true → s.arch.version < 7) →
      LoadManyAt (.ldmA1 cond w rn regs) s regs (s.operand rn) vals rn w (s.operand rn + listBytes regs) ∧
      LoadManyAt (.ldmdaA1 cond w rn regs) s regs (s.operand rn - listBytes regs + 4) vals rn w (s.operand rn - listBytes regs) ∧
      LoadManyAt (.ldmdbA1 cond w rn regs) s regs (s.operand rn - listBytes regs) vals rn w (s.operand rn - listBytes regs) ∧
      LoadManyAt (.ldmibA1 cond w rn regs) s regs (s.operand rn + 4) vals rn w (s.operand rn + listBytes regs)) ∧
    (∀ (rn : BitVec 3) (regs : BitVec 8), bitCount (list8 regs) ≠ 0 →
      LoadManyAt (.ldmT1 rn regs) s (list8 regs) (s.operand (lowReg rn)) vals (lowReg rn) (!(list8 regs).getLsbD (lowReg rn).toNat) (s.operand (lowReg rn) + listBytes (list8 regs))) ∧
    (∀ (rn : BitVec 4) (p m : Bool) (regs : BitVec 13), rn ≠ 15 → 2 ≤ bitCount (listPM13 p m regs) → (p && m) = false →
      (p = true → s.inITBlock = true → s.lastInITBlock = true) →
      (w = true → (listPM13 p m regs).getLsbD rn.toNat = false) →
      LoadManyAt (.ldmT2 w rn p m regs) s (listPM13 p m regs) (s.operand rn) vals rn w (s.operand rn + listBytes (listPM13 p m regs)) ∧
      LoadManyAt (.ldmdbT1 w rn p m regs) s (listPM13 p m regs) (s.operand rn - listBytes (listPM13 p m regs)) vals rn w (s.operand rn - listBytes (listPM13 p m regs)))

/-- STM, STMDA, STMDB, STMIB, all encodings (47_load_store_multiple.md rules R330, R335 to R338). -/
def Obligations.StoreMultiples : Prop :=
  ∀ s : State, s.served → ∀ w : Bool,
    (∀ (cond rn : BitVec 4) (regs : BitVec 16), rn ≠ 15 → bitCount regs ≠ 0 →
      StoreManyDone (.stmA1 cond w rn regs) s regs (s.operand rn) rn w (s.operand rn + listBytes regs) ∧
      StoreManyDone (.stmdaA1 cond w rn regs) s regs (s.operand rn - listBytes regs + 4) rn w (s.operand rn - listBytes regs) ∧
      StoreManyDone (.stmdbA1 cond w rn regs) s regs (s.operand rn - listBytes regs) rn w (s.operand rn - listBytes regs) ∧
      StoreManyDone (.stmibA1 cond w rn regs) s regs (s.operand rn + 4) rn w (s.operand rn + listBytes regs)) ∧
    (∀ (rn : BitVec 3) (regs : BitVec 8), bitCount (list8 regs) ≠ 0 →
      StoreManyDone (.stmT1 rn regs) s (list8 regs) (s.operand (lowReg rn)) (lowReg rn) true (s.operand (lowReg rn) + listBytes (list8 regs))) ∧
    (∀ (rn : BitVec 4) (m : Bool) (regs : BitVec 13), rn ≠ 15 → 2 ≤ bitCount (listM13 m regs) →
      (w = true → (listM13 m regs).getLsbD rn.toNat = false) →
      StoreManyDone (.stmT2 w rn m regs) s (listM13 m regs) (s.operand rn) rn w (s.operand rn + listBytes (listM13 m regs)) ∧
      StoreManyDone (.stmdbT1 w rn m regs) s (listM13 m regs) (s.operand rn - listBytes (listM13 m regs)) rn w (s.operand rn - listBytes (listM13 m regs)))

/-- LDR, all encodings (48_load_store_single.md rules R350 to R353). -/
def Obligations.WordLoads : Prop :=
  ∀ s : State, s.served →
    (∀ (cond : BitVec 4) (p u w : Bool) (rn rt rm : BitVec 4) (imm12 : BitVec 12) (imm5 : BitVec 5) (ty : BitVec 2),
      let x := s.operand rn;
      let imm : Word := imm12.setWidth 32;
      let off := shift (s.operand rm) (decodeImmShift ty imm5).1 (decodeImmShift ty imm5).2 s.carry;
      (p = false → w = false) →
      LoadAt (.ldrLitA1 cond u rt imm12) s rt 4 (indexed true u (align4 s.pcValue) imm) none ∧
      (rn ≠ 15 → ((p = false ∨ w = true) → rn ≠ rt) →
        LoadAt (.ldrImmA1 cond p u w rn rt imm12) s rt 4 (indexed p u x imm) (writeback (!p || w) u rn x imm)) ∧
      (rm ≠ 15 → ((p = false ∨ w = true) → rn ≠ 15 ∧ rn ≠ rt) →
        LoadAt (.ldrRegA1 cond p u w rn rt imm5 ty rm) s rt 4 (indexed p u x off) (writeback (!p || w) u rn x off))) ∧
    (∀ (rn rt rm : BitVec 3) (imm5 : BitVec 5) (imm8 : BitVec 8),
      let x := s.operand (lowReg rn);
      let i5 : Word := imm5.setWidth 32 * 4;
      let i8 : Word := imm8.setWidth 32 * 4;
      LoadAt (.ldrImmT1 imm5 rn rt) s (lowReg rt) 4 (indexed true true x i5) none ∧
      LoadAt (.ldrRegT1 rm rn rt) s (lowReg rt) 4 (indexed true true x (s.operand (lowReg rm))) none ∧
      LoadAt (.ldrImmT2 rt imm8) s (lowReg rt) 4 (indexed true true (s.getCore 13) i8) none ∧
      LoadAt (.ldrLitT1 rt imm8) s (lowReg rt) 4 (indexed true true (align4 s.pcValue) i8) none) ∧
    (∀ (rn rt rm : BitVec 4) (p u w : Bool) (imm12 : BitVec 12) (imm8 : BitVec 8) (imm2 : BitVec 2),
      let x := s.operand rn;
      let i12 : Word := imm12.setWidth 32;
      let i8 : Word := imm8.setWidth 32;
      let off := shift (s.operand rm) .lsl imm2.toNat s.carry;
      (rt = 15 → s.inITBlock = true → s.lastInITBlock = true) →
      LoadAt (.ldrLitT2 u rt imm12) s rt 4 (indexed true u (align4 s.pcValue) i12) none ∧
      (rn ≠ 15 →
        LoadAt (.ldrImmT3 rn rt imm12) s rt 4 (indexed true true x i12) none ∧
        (badReg rm = false →
          LoadAt (.ldrRegT2 rn rt imm2 rm) s rt 4 (indexed true true x off) none) ∧
        ((p = true ∨ w = true) → ¬ (p = true ∧ u = true ∧ w = false) → (w = true → rn ≠ rt) →
          LoadAt (.ldrImmT4 rn rt p u w imm8) s rt 4 (indexed p u x i8) (writeback w u rn x i8))))

/-- LDRB, all encodings (48_load_store_single.md rules R350, R356 to R358). -/
def Obligations.ByteLoads : Prop :=
  ∀ s : State, s.served →
    (∀ (cond : BitVec 4) (p u w : Bool) (rn rt rm : BitVec 4) (imm12 : BitVec 12) (imm5 : BitVec 5) (ty : BitVec 2),
      let x := s.operand rn;
      let imm : Word := imm12.setWidth 32;
      let off := shift (s.operand rm) (decodeImmShift ty imm5).1 (decodeImmShift ty imm5).2 s.carry;
      (p = false → w = false) → rt ≠ 15 →
      LoadAt (.ldrbLitA1 cond u rt imm12) s rt 1 (indexed true u (align4 s.pcValue) imm) none ∧
      (rn ≠ 15 → ((p = false ∨ w = true) → rn ≠ rt) →
        LoadAt (.ldrbImmA1 cond p u w rn rt imm12) s rt 1 (indexed p u x imm) (writeback (!p || w) u rn x imm)) ∧
      (rm ≠ 15 → ((p = false ∨ w = true) → rn ≠ 15 ∧ rn ≠ rt) →
        LoadAt (.ldrbRegA1 cond p u w rn rt imm5 ty rm) s rt 1 (indexed p u x off) (writeback (!p || w) u rn x off))) ∧
    (∀ (rn rt rm : BitVec 3) (imm5 : BitVec 5),
      let x := s.operand (lowReg rn);
      let i5 : Word := imm5.setWidth 32;
      LoadAt (.ldrbImmT1 imm5 rn rt) s (lowReg rt) 1 (indexed true true x i5) none ∧
      LoadAt (.ldrbRegT1 rm rn rt) s (lowReg rt) 1 (indexed true true x (s.operand (lowReg rm))) none) ∧
    (∀ (rn rt rm : BitVec 4) (p u w : Bool) (imm12 : BitVec 12) (imm8 : BitVec 8) (imm2 : BitVec 2),
      let x := s.operand rn;
      let i12 : Word := imm12.setWidth 32;
      let i8 : Word := imm8.setWidth 32;
      let off := shift (s.operand rm) .lsl imm2.toNat s.carry;
      badReg rt = false →
      LoadAt (.ldrbLitT1 u rt imm12) s rt 1 (indexed true u (align4 s.pcValue) i12) none ∧
      (rn ≠ 15 →
        LoadAt (.ldrbImmT2 rn rt imm12) s rt 1 (indexed true true x i12) none ∧
        (badReg rm = false →
          LoadAt (.ldrbRegT2 rn rt imm2 rm) s rt 1 (indexed true true x off) none) ∧
        ((p = true ∨ w = true) → ¬ (p = true ∧ u = true ∧ w = false) → (w = true → rn ≠ rt) →
          LoadAt (.ldrbImmT3 rn rt p u w imm8) s rt 1 (indexed p u x i8) (writeback w u rn x i8))))

/-- STR, all encodings (48_load_store_single.md rules R350, R354, R355). -/
def Obligations.WordStores : Prop :=
  ∀ s : State, s.served →
    (∀ (cond : BitVec 4) (p u w : Bool) (rn rt rm : BitVec 4) (imm12 : BitVec 12) (imm5 : BitVec 5) (ty : BitVec 2),
      let x := s.operand rn;
      let imm : Word := imm12.setWidth 32;
      let off := shift (s.operand rm) (decodeImmShift ty imm5).1 (decodeImmShift ty imm5).2 s.carry;
      (p = false → w = false) →
      (((p = false ∨ w = true) → rn ≠ 15 ∧ rn ≠ rt) →
        StoreAt (.strImmA1 cond p u w rn rt imm12) s rt 4 (indexed p u x imm) (writeback (!p || w) u rn x imm)) ∧
      (rm ≠ 15 → ((p = false ∨ w = true) → rn ≠ 15 ∧ rn ≠ rt) →
        StoreAt (.strRegA1 cond p u w rn rt imm5 ty rm) s rt 4 (indexed p u x off) (writeback (!p || w) u rn x off))) ∧
    (∀ (rn rt rm : BitVec 3) (imm5 : BitVec 5) (imm8 : BitVec 8),
      let x := s.operand (lowReg rn);
      let i5 : Word := imm5.setWidth 32 * 4;
      let i8 : Word := imm8.setWidth 32 * 4;
      StoreAt (.strImmT1 imm5 rn rt) s (lowReg rt) 4 (indexed true true x i5) none ∧
      StoreAt (.strRegT1 rm rn rt) s (lowReg rt) 4 (indexed true true x (s.operand (lowReg rm))) none ∧
      StoreAt (.strImmT2 rt imm8) s (lowReg rt) 4 (indexed true true (s.getCore 13) i8) none) ∧
    (∀ (rn rt rm : BitVec 4) (p u w : Bool) (imm12 : BitVec 12) (imm8 : BitVec 8) (imm2 : BitVec 2),
      let x := s.operand rn;
      let i12 : Word := imm12.setWidth 32;
      let i8 : Word := imm8.setWidth 32;
      let off := shift (s.operand rm) .lsl imm2.toNat s.carry;
      rt ≠ 15 →
      (rn ≠ 15 →
        StoreAt (.strImmT3 rn rt imm12) s rt 4 (indexed true true x i12) none ∧
        (badReg rm = false →
          StoreAt (.strRegT2 rn rt imm2 rm) s rt 4 (indexed true true x off) none) ∧
        ((p = true ∨ w = true) → ¬ (p = true ∧ u = true ∧ w = false) → (w = true → rn ≠ rt) →
          StoreAt (.strImmT4 rn rt p u w imm8) s rt 4 (indexed p u x i8) (writeback w u rn x i8))))

/-- STRB, all encodings (48_load_store_single.md rules R350, R359, R360). -/
def Obligations.ByteStores : Prop :=
  ∀ s : State, s.served →
    (∀ (cond : BitVec 4) (p u w : Bool) (rn rt rm : BitVec 4) (imm12 : BitVec 12) (imm5 : BitVec 5) (ty : BitVec 2),
      let x := s.operand rn;
      let imm : Word := imm12.setWidth 32;
      let off := shift (s.operand rm) (decodeImmShift ty imm5).1 (decodeImmShift ty imm5).2 s.carry;
      (p = false → w = false) → rt ≠ 15 →
      (((p = false ∨ w = true) → rn ≠ 15 ∧ rn ≠ rt) →
        StoreAt (.strbImmA1 cond p u w rn rt imm12) s rt 1 (indexed p u x imm) (writeback (!p || w) u rn x imm)) ∧
      (rm ≠ 15 → ((p = false ∨ w = true) → rn ≠ 15 ∧ rn ≠ rt) →
        StoreAt (.strbRegA1 cond p u w rn rt imm5 ty rm) s rt 1 (indexed p u x off) (writeback (!p || w) u rn x off))) ∧
    (∀ (rn rt rm : BitVec 3) (imm5 : BitVec 5),
      let x := s.operand (lowReg rn);
      let i5 : Word := imm5.setWidth 32;
      StoreAt (.strbImmT1 imm5 rn rt) s (lowReg rt) 1 (indexed true true x i5) none ∧
      StoreAt (.strbRegT1 rm rn rt) s (lowReg rt) 1 (indexed true true x (s.operand (lowReg rm))) none) ∧
    (∀ (rn rt rm : BitVec 4) (p u w : Bool) (imm12 : BitVec 12) (imm8 : BitVec 8) (imm2 : BitVec 2),
      let x := s.operand rn;
      let i12 : Word := imm12.setWidth 32;
      let i8 : Word := imm8.setWidth 32;
      let off := shift (s.operand rm) .lsl imm2.toNat s.carry;
      badReg rt = false →
      (rn ≠ 15 →
        StoreAt (.strbImmT2 rn rt imm12) s rt 1 (indexed true true x i12) none ∧
        (badReg rm = false →
          StoreAt (.strbRegT2 rn rt imm2 rm) s rt 1 (indexed true true x off) none) ∧
        ((p = true ∨ w = true) → ¬ (p = true ∧ u = true ∧ w = false) → (w = true → rn ≠ rt) →
          StoreAt (.strbImmT3 rn rt p u w imm8) s rt 1 (indexed p u x i8) (writeback w u rn x i8))))

/-- SVC, both encodings (49_svc_driver.md rule R380): the link register and nothing else. -/
def Obligations.SupervisorCalls : Prop :=
  ∀ s : State, s.served → ∀ (cond : BitVec 4) (imm24 : BitVec 24) (imm8 : BitVec 8),
    let done := fun (i : Instr) (imm32 : Word) => Completes i s fun t =>
      t.getCore 14 = nextNarrow s ∧
      t.writes = .writeRegister (.supervisorCall imm32) (.core 14) ((nextNarrow s).setWidth 64) true :: s.writes ∧
      SameCoreBut [14] s t ∧ SameStatus s t ∧ SameMem s t ∧ SameExt s t
    done (.svcA1 cond imm24) (imm24.setWidth 32) ∧ done (.svcT1 imm8) (imm8.setWidth 32)

/-- IT (41_condition_it.md rules R171, R180): it starts the session and changes nothing else. -/
def Obligations.IfThen : Prop :=
  ∀ (s : State) (firstcond mask : BitVec 4), mask ≠ 0 → s.inITBlock = false → firstcond ≠ 15 →
    (firstcond = 14 → mask = 8) →
    exec (.itT1 firstcond mask) s =
      .next { s with it := { state := firstcond ++ mask, remaining := 4 - trailingZeros mask }, fault := none }

/-- The UNPREDICTABLE operands of data processing and shifts (43_dp_arith.md, 44_dp_logic.md, 45_shift_rotate.md; 60_exceptions.md
rules R402, R405): the instruction fails with `UnpredictableOperands` and changes nothing else. -/
def Obligations.UnpredictableDataProcessing : Prop :=
  ∀ s : State,
    (∀ (cond : BitVec 4) (setS : Bool) (rd rm rn : BitVec 4), rd = 15 ∨ rn = 15 ∨ rm = 15 →
        Unpredictable (.lslRegA1 cond setS rd rm rn) s ∧
        Unpredictable (.lsrRegA1 cond setS rd rm rn) s ∧
        Unpredictable (.asrRegA1 cond setS rd rm rn) s ∧
        Unpredictable (.rorRegA1 cond setS rd rm rn) s) ∧
    (∀ rm rd : BitVec 3, s.inITBlock = true → Unpredictable (.lslImmT1 0 rm rd) s) ∧
    (∀ (n : BitVec 1) (rm : BitVec 4) (rn : BitVec 3),
      ((splitReg n rn).toNat < 8 ∧ rm.toNat < 8) ∨ splitReg n rn = 15 ∨ rm = 15 → Unpredictable (.cmpRegT2 n rm rn) s) ∧
    (∀ (n : BitVec 1) (rm : BitVec 4) (rdn : BitVec 3),
      splitReg n rdn = 15 → rm = 15 ∨ (s.inITBlock = true ∧ s.lastInITBlock = false) → Unpredictable (.addRegT2 n rm rdn) s) ∧
    (∀ (i1 : BitVec 1) (setS : Bool) (rn rd : BitVec 4) (imm3 : BitVec 3) (imm8 : BitVec 8),
      let noImm := thumbExpandImmC (i1 ++ imm3 ++ imm8) s.carry = none;
      (badReg rd = true ∨ badReg rn = true ∨ noImm →
        Unpredictable (.adcImmT1 i1 setS rn imm3 rd imm8) s ∧
        Unpredictable (.rsbImmT2 i1 setS rn imm3 rd imm8) s ∧
        Unpredictable (.andImmT1 i1 setS rn imm3 rd imm8) s ∧
        Unpredictable (.eorImmT1 i1 setS rn imm3 rd imm8) s ∧
        (rn ≠ 15 → Unpredictable (.orrImmT1 i1 setS rn imm3 rd imm8) s)) ∧
      ((if rn = 13 then rd = 15 else badReg rd = true ∨ rn = 15) ∨ noImm →
        Unpredictable (.addImmT3 i1 setS rn imm3 rd imm8) s ∧
        Unpredictable (.subImmT3 i1 setS rn imm3 rd imm8) s) ∧
      (rn ≠ 15 → (if rn = 13 then rd = 15 else badReg rd = true) →
        Unpredictable (.addImmT4 i1 rn imm3 rd imm8) s ∧
        Unpredictable (.subImmT4 i1 rn imm3 rd imm8) s) ∧
      (badReg rd = true ∨ noImm → Unpredictable (.mvnImmT1 i1 setS imm3 rd imm8) s) ∧
      (rn = 15 ∨ noImm →
        Unpredictable (.cmpImmT2 i1 rn imm3 imm8) s ∧
        Unpredictable (.cmnImmT1 i1 rn imm3 imm8) s) ∧
      (badReg rn = true ∨ noImm →
        Unpredictable (.tstImmT1 i1 rn imm3 imm8) s ∧
        Unpredictable (.teqImmT1 i1 rn imm3 imm8) s)) ∧
    (∀ (setS : Bool) (rn rd rm : BitVec 4) (imm3 : BitVec 3) (imm2 ty : BitVec 2),
      let sh := decodeImmShift ty (imm3 ++ imm2);
      (badReg rd = true ∨ badReg rn = true ∨ badReg rm = true →
        Unpredictable (.adcRegT2 setS rn imm3 rd imm2 ty rm) s ∧
        Unpredictable (.rsbRegT1 setS rn imm3 rd imm2 ty rm) s ∧
        Unpredictable (.andRegT2 setS rn imm3 rd imm2 ty rm) s ∧
        Unpredictable (.eorRegT2 setS rn imm3 rd imm2 ty rm) s ∧
        Unpredictable (.lslRegT2 setS rn rd rm) s ∧
        Unpredictable (.lsrRegT2 setS rn rd rm) s ∧
        Unpredictable (.asrRegT2 setS rn rd rm) s ∧
        Unpredictable (.rorRegT2 setS rn rd rm) s ∧
        (rn ≠ 15 → Unpredictable (.orrRegT2 setS rn imm3 rd imm2 ty rm) s)) ∧
      (badReg rd = true ∨ badReg rm = true →
        Unpredictable (.mvnRegT2 setS imm3 rd imm2 ty rm) s ∧
        Unpredictable (.lslImmT2 setS imm3 rd imm2 rm) s ∧
        Unpredictable (.lsrImmT2 setS imm3 rd imm2 rm) s ∧
        Unpredictable (.asrImmT2 setS imm3 rd imm2 rm) s ∧
        Unpredictable (.rorImmT1 setS imm3 rd imm2 rm) s ∧
        Unpredictable (.rrxT1 setS rd rm) s) ∧
      ((badReg rm = true ∨ rd = 15 ∨ if rn = 13 then rd = 13 ∧ ¬ (sh.1 = .lsl ∧ sh.2 ≤ 3) else rd = 13 ∨ rn = 15) →
        Unpredictable (.addRegT3 setS rn imm3 rd imm2 ty rm) s ∧
        Unpredictable (.subRegT2 setS rn imm3 rd imm2 ty rm) s) ∧
      (rn = 15 ∨ badReg rm = true →
        Unpredictable (.cmpRegT3 rn imm3 imm2 ty rm) s ∧
        Unpredictable (.cmnRegT2 rn imm3 imm2 ty rm) s) ∧
      (badReg rn = true ∨ badReg rm = true →
        Unpredictable (.tstRegT2 rn imm3 imm2 ty rm) s ∧
        Unpredictable (.teqRegT1 rn imm3 imm2 ty rm) s))

/-- The UNPREDICTABLE operands of branches, IT, stack and multiple transfers (46_branch.md, 41_condition_it.md rule R180,
42_stack.md, 47_load_store_multiple.md; 60_exceptions.md rule R402). -/
def Obligations.UnpredictableBranchesAndLists : Prop :=
  ∀ s : State,
    (∀ cond : BitVec 4, Unpredictable (.blxRegA1 cond 15) s) ∧ Unpredictable (.blxRegT1 15) s ∧
    (∀ imm8 : BitVec 8, Unpredictable (.bT1 14 imm8) s) ∧
    (∀ (sgn : BitVec 1) (imm10 : BitVec 10) (j1 j2 : BitVec 1) (imm10l : BitVec 10),
      Unpredictable (.blxImmT2 sgn imm10 j1 j2 imm10l 1) s) ∧
    (∀ rn rm : BitVec 4, rn = 13 ∨ badReg rm = true → Unpredictable (.tbbT1 rn rm) s ∧ Unpredictable (.tbhT1 rn rm) s) ∧
    (s.inITBlock = true → s.lastInITBlock = false →
      (∀ rm : BitVec 4, Unpredictable (.blxRegT1 rm) s ∧ Unpredictable (.bxT1 rm) s) ∧
      (∀ imm11 : BitVec 11, Unpredictable (.bT2 imm11) s) ∧
      (∀ (sgn : BitVec 1) (imm10 : BitVec 10) (j1 j2 : BitVec 1),
        (∀ imm11 : BitVec 11, Unpredictable (.bT4 sgn imm10 j1 j2 imm11) s ∧ Unpredictable (.blImmT1 sgn imm10 j1 j2 imm11) s) ∧
        (∀ (imm10l : BitVec 10) (h : BitVec 1), Unpredictable (.blxImmT2 sgn imm10 j1 j2 imm10l h) s)) ∧
      (∀ rn rm : BitVec 4, Unpredictable (.tbbT1 rn rm) s ∧ Unpredictable (.tbhT1 rn rm) s) ∧
      (∀ regs : BitVec 8, Unpredictable (.popT1 true regs) s) ∧
      (∀ (m : Bool) (regs : BitVec 13), Unpredictable (.popT2 true m regs) s) ∧
      Unpredictable (.popT3 15) s ∧
      (∀ (w : Bool) (rn : BitVec 4) (m : Bool) (regs : BitVec 13),
        Unpredictable (.ldmT2 w rn true m regs) s ∧ Unpredictable (.ldmdbT1 w rn true m regs) s)) ∧
    (s.inITBlock = true →
      (∀ (cond : BitVec 4) (imm8 : BitVec 8), Unpredictable (.bT1 cond imm8) s) ∧
      (∀ (sgn : BitVec 1) (cond : BitVec 4) (imm6 : BitVec 6) (j1 j2 : BitVec 1) (imm11 : BitVec 11), cond.toNat < 14 →
        Unpredictable (.bT3 sgn cond imm6 j1 j2 imm11) s) ∧
      (∀ (i1 : BitVec 1) (imm5 : BitVec 5) (rn : BitVec 3),
        Unpredictable (.cbzT1 i1 imm5 rn) s ∧ Unpredictable (.cbnzT1 i1 imm5 rn) s)) ∧
    (∀ firstcond mask : BitVec 4, mask ≠ 0 → s.inITBlock = true ∨ firstcond = 15 ∨ (firstcond = 14 ∧ mask ≠ 8) →
      Unpredictable (.itT1 firstcond mask) s) ∧
    (∀ cond : BitVec 4, Unpredictable (.pushA1 cond 0) s ∧ Unpredictable (.popA1 cond 0) s ∧
      Unpredictable (.pushA2 cond 13) s ∧ Unpredictable (.popA2 cond 13) s ∧
      ∀ regs : BitVec 16, regs.getLsbD 13 = true → 7 ≤ s.arch.version → Unpredictable (.popA1 cond regs) s) ∧
    Unpredictable (.pushT1 false 0) s ∧ Unpredictable (.popT1 false 0) s ∧ Unpredictable (.pushT3 13) s ∧
    Unpredictable (.pushT3 15) s ∧ Unpredictable (.popT3 13) s ∧
    (∀ (m p : Bool) (regs : BitVec 13),
      (bitCount (listM13 m regs) < 2 → Unpredictable (.pushT2 m regs) s) ∧
      (bitCount (listPM13 p m regs) < 2 ∨ (p = true ∧ m = true) → Unpredictable (.popT2 p m regs) s)) ∧
    (∀ (cond : BitVec 4) (dbit : BitVec 1) (vd : BitVec 4) (imm8 : BitVec 8),
      (imm8.getLsbD 0 = true ∨ imm8.toNat / 2 = 0 ∨ 16 < imm8.toNat / 2 ∨ 32 < (dbit ++ vd).toNat + imm8.toNat / 2 →
        Unpredictable (.vpushA1 cond dbit vd imm8) s ∧
        Unpredictable (.vpushT1 dbit vd imm8) s ∧
        Unpredictable (.vpopA1 cond dbit vd imm8) s ∧
        Unpredictable (.vpopT1 dbit vd imm8) s) ∧
      (imm8 = 0 ∨ 32 < (vd ++ dbit).toNat + imm8.toNat →
        Unpredictable (.vpushA2 cond dbit vd imm8) s ∧
        Unpredictable (.vpushT2 dbit vd imm8) s ∧
        Unpredictable (.vpopA2 cond dbit vd imm8) s ∧
        Unpredictable (.vpopT2 dbit vd imm8) s)) ∧
    (∀ (cond : BitVec 4) (w : Bool) (rn : BitVec 4) (regs : BitVec 16),
      (rn = 15 ∨ regs = 0 →
        Unpredictable (.ldmA1 cond w rn regs) s ∧
        Unpredictable (.ldmdaA1 cond w rn regs) s ∧
        Unpredictable (.ldmdbA1 cond w rn regs) s ∧
        Unpredictable (.ldmibA1 cond w rn regs) s ∧
        Unpredictable (.stmA1 cond w rn regs) s ∧
        Unpredictable (.stmdaA1 cond w rn regs) s ∧
        Unpredictable (.stmdbA1 cond w rn regs) s ∧
        Unpredictable (.stmibA1 cond w rn regs) s) ∧
      (w = true → regs.getLsbD rn.toNat = true → 7 ≤ s.arch.version →
        Unpredictable (.ldmA1 cond w rn regs) s ∧
        Unpredictable (.ldmdaA1 cond w rn regs) s ∧
        Unpredictable (.ldmdbA1 cond w rn regs) s ∧
        Unpredictable (.ldmibA1 cond w rn regs) s)) ∧
    (∀ rn : BitVec 3, Unpredictable (.ldmT1 rn 0) s ∧ Unpredictable (.stmT1 rn 0) s) ∧
    (∀ (w : Bool) (rn : BitVec 4) (p m : Bool) (regs : BitVec 13),
      (rn = 15 ∨ bitCount (listPM13 p m regs) < 2 ∨ (p = true ∧ m = true) ∨
          (w = true ∧ (listPM13 p m regs).getLsbD rn.toNat = true) →
        Unpredictable (.ldmT2 w rn p m regs) s ∧
        Unpredictable (.ldmdbT1 w rn p m regs) s) ∧
      (rn = 15 ∨ bitCount (listM13 m regs) < 2 ∨ (w = true ∧ (listM13 m regs).getLsbD rn.toNat = true) →
        Unpredictable (.stmT2 w rn m regs) s ∧
        Unpredictable (.stmdbT1 w rn m regs) s))

/-- The UNPREDICTABLE operands of single loads and stores (48_load_store_single.md rules R351 to R360; 60_exceptions.md rules R402,
R405), the operand forms outside the subset set aside. -/
def Obligations.UnpredictableLoadsAndStores : Prop :=
  ∀ s : State,
    (∀ (cond : BitVec 4) (p u w : Bool) (rn rt rm : BitVec 4) (imm12 : BitVec 12) (imm5 : BitVec 5) (ty : BitVec 2),
      (p = false → w = false) →
      (rn = 15 ∨ ((p = false ∨ w = true) ∧ rn = rt) →
        Unpredictable (.ldrImmA1 cond p u w rn rt imm12) s) ∧
      (rm = 15 ∨ ((p = false ∨ w = true) ∧ (rn = 15 ∨ rn = rt)) →
        Unpredictable (.ldrRegA1 cond p u w rn rt imm5 ty rm) s) ∧
      (rt = 15 → Unpredictable (.ldrbLitA1 cond u rt imm12) s) ∧
      (rt = 15 ∨ rn = 15 ∨ ((p = false ∨ w = true) ∧ rn = rt) →
        Unpredictable (.ldrbImmA1 cond p u w rn rt imm12) s) ∧
      (rt = 15 ∨ rm = 15 ∨ ((p = false ∨ w = true) ∧ (rn = 15 ∨ rn = rt)) →
        Unpredictable (.ldrbRegA1 cond p u w rn rt imm5 ty rm) s) ∧
      (((p = false ∨ w = true) ∧ (rn = 15 ∨ rn = rt)) →
        Unpredictable (.strImmA1 cond p u w rn rt imm12) s) ∧
      (rm = 15 ∨ ((p = false ∨ w = true) ∧ (rn = 15 ∨ rn = rt)) →
        Unpredictable (.strRegA1 cond p u w rn rt imm5 ty rm) s) ∧
      (rt = 15 ∨ ((p = false ∨ w = true) ∧ (rn = 15 ∨ rn = rt)) →
        Unpredictable (.strbImmA1 cond p u w rn rt imm12) s) ∧
      (rt = 15 ∨ rm = 15 ∨ ((p = false ∨ w = true) ∧ (rn = 15 ∨ rn = rt)) →
        Unpredictable (.strbRegA1 cond p u w rn rt imm5 ty rm) s)) ∧
    (∀ (rn rt rm : BitVec 4) (p u w : Bool) (imm12 : BitVec 12) (imm8 : BitVec 8) (imm2 : BitVec 2),
      let late := rt = 15 ∧ s.inITBlock = true ∧ s.lastInITBlock = false;
      let noForm := (p = false ∧ w = false) ∨ (w = true ∧ rn = rt);
      (late → Unpredictable (.ldrLitT2 u rt imm12) s ∧ Unpredictable (.ldrImmT3 rn rt imm12) s) ∧
      (late ∨ badReg rm = true → Unpredictable (.ldrRegT2 rn rt imm2 rm) s) ∧
      (¬ (p = true ∧ u = true ∧ w = false) → late ∨ noForm → Unpredictable (.ldrImmT4 rn rt p u w imm8) s) ∧
      (rt = 13 → Unpredictable (.ldrbLitT1 u rt imm12) s ∧ Unpredictable (.ldrbImmT2 rn rt imm12) s) ∧
      (rt ≠ 15 → rt = 13 ∨ badReg rm = true → Unpredictable (.ldrbRegT2 rn rt imm2 rm) s) ∧
      (¬ (p = true ∧ u = true ∧ w = false) → ¬ (rt = 15 ∧ p = true ∧ u = false ∧ w = false) → badReg rt = true ∨ noForm →
        Unpredictable (.ldrbImmT3 rn rt p u w imm8) s) ∧
      (rn = 15 ∨ rt = 15 → Unpredictable (.strImmT3 rn rt imm12) s) ∧
      (rn = 15 ∨ rt = 15 ∨ badReg rm = true → Unpredictable (.strRegT2 rn rt imm2 rm) s) ∧
      (¬ (p = true ∧ u = true ∧ w = false) → rn = 15 ∨ rt = 15 ∨ noForm → Unpredictable (.strImmT4 rn rt p u w imm8) s) ∧
      (rn = 15 ∨ badReg rt = true → Unpredictable (.strbImmT2 rn rt imm12) s) ∧
      (rn = 15 ∨ badReg rt = true ∨ badReg rm = true → Unpredictable (.strbRegT2 rn rt imm2 rm) s) ∧
      (¬ (p = true ∧ u = true ∧ w = false) → rn = 15 ∨ badReg rt = true ∨ noForm →
        Unpredictable (.strbImmT3 rn rt p u w imm8) s))

/-- The words that match a row but are another instruction of the architecture (30_encoding.md rule R116): they fail with
`UnsupportedEncoding`, before any UNPREDICTABLE test (60_exceptions.md rule R405). -/
def Obligations.OutsideTheSubset : Prop :=
  ∀ s : State,
    (∀ firstcond : BitVec 4, OutsideSubset (.itT1 firstcond 0) s) ∧
    (∀ (sgn : BitVec 1) (cond : BitVec 4) (imm6 : BitVec 6) (j1 j2 : BitVec 1) (imm11 : BitVec 11), 14 ≤ cond.toNat →
      OutsideSubset (.bT3 sgn cond imm6 j1 j2 imm11) s) ∧
    (∀ (i1 : BitVec 1) (setS : Bool) (rd rm : BitVec 4) (imm3 : BitVec 3) (imm8 : BitVec 8) (imm2 ty : BitVec 2),
      OutsideSubset (.orrImmT1 i1 setS 15 imm3 rd imm8) s ∧
      OutsideSubset (.orrRegT2 setS 15 imm3 rd imm2 ty rm) s ∧
      OutsideSubset (.addImmT4 i1 15 imm3 rd imm8) s ∧
      OutsideSubset (.subImmT4 i1 15 imm3 rd imm8) s) ∧
    (∀ (cond : BitVec 4) (u : Bool) (rn rt rm : BitVec 4) (imm12 : BitVec 12) (imm5 : BitVec 5) (ty : BitVec 2),
      OutsideSubset (.ldrImmA1 cond false u true rn rt imm12) s ∧ OutsideSubset (.ldrRegA1 cond false u true rn rt imm5 ty rm) s ∧
      OutsideSubset (.ldrbImmA1 cond false u true rn rt imm12) s ∧ OutsideSubset (.ldrbRegA1 cond false u true rn rt imm5 ty rm) s ∧
      OutsideSubset (.strImmA1 cond false u true rn rt imm12) s ∧ OutsideSubset (.strRegA1 cond false u true rn rt imm5 ty rm) s ∧
      OutsideSubset (.strbImmA1 cond false u true rn rt imm12) s ∧ OutsideSubset (.strbRegA1 cond false u true rn rt imm5 ty rm) s) ∧
    (∀ (rn rt : BitVec 4) (imm8 : BitVec 8),
      OutsideSubset (.ldrImmT4 rn rt true true false imm8) s ∧
      OutsideSubset (.ldrbImmT3 rn rt true true false imm8) s ∧
      OutsideSubset (.strImmT4 rn rt true true false imm8) s ∧
      OutsideSubset (.strbImmT3 rn rt true true false imm8) s) ∧
    (∀ (u : Bool) (rn rm : BitVec 4) (imm12 : BitVec 12) (imm8 : BitVec 8) (imm2 : BitVec 2),
      OutsideSubset (.ldrbLitT1 u 15 imm12) s ∧
      OutsideSubset (.ldrbImmT2 rn 15 imm12) s ∧
      OutsideSubset (.ldrbRegT2 rn 15 imm2 rm) s ∧
      OutsideSubset (.ldrbImmT3 rn 15 true false false imm8) s)

/-- The loads that fail, on the operands their rules allow. LDR and LDRB in every encoding and form: LDR of the PC from a
misaligned address is UNPREDICTABLE after the register reads, and LDR or LDRB from bytes not all mapped is an `AccessFailure`;
neither writes anything (48_load_store_single.md rule R350; 60_exceptions.md rules R402, R403; 49_svc_driver.md rule R394). TBB
and TBH from an unmapped table entry (46_branch.md rules R312, R313). POP, VPOP, LDM, LDMDA, LDMDB, LDMIB in every encoding
where the first unmapped item is the `j`-th: the items before it are in their registers, and SP or the base is not written
back (42_stack.md rules R200, R202, R204; 47_load_store_multiple.md rule R330). -/
def Obligations.FailedLoads : Prop :=
  ∀ s : State, s.served →
    ((∀ (cond : BitVec 4) (p u w : Bool) (rn rt rm : BitVec 4) (imm12 : BitVec 12) (imm5 : BitVec 5) (ty : BitVec 2),
       let x := s.operand rn;
       let imm : Word := imm12.setWidth 32;
       let off := shift (s.operand rm) (decodeImmShift ty imm5).1 (decodeImmShift ty imm5).2 s.carry;
       (p = false → w = false) →
       LoadStops (.ldrLitA1 cond u rt imm12) s rt 4 (indexed true u (align4 s.pcValue) imm) ∧
       (rn ≠ 15 → ((p = false ∨ w = true) → rn ≠ rt) →
         LoadStops (.ldrImmA1 cond p u w rn rt imm12) s rt 4 (indexed p u x imm)) ∧
       (rm ≠ 15 → ((p = false ∨ w = true) → rn ≠ 15 ∧ rn ≠ rt) →
         LoadStops (.ldrRegA1 cond p u w rn rt imm5 ty rm) s rt 4 (indexed p u x off))) ∧
     (∀ (rn rt rm : BitVec 3) (imm5 : BitVec 5) (imm8 : BitVec 8),
       let x := s.operand (lowReg rn);
       let i5 : Word := imm5.setWidth 32 * 4;
       let i8 : Word := imm8.setWidth 32 * 4;
       LoadStops (.ldrImmT1 imm5 rn rt) s (lowReg rt) 4 (indexed true true x i5) ∧
       LoadStops (.ldrRegT1 rm rn rt) s (lowReg rt) 4 (indexed true true x (s.operand (lowReg rm))) ∧
       LoadStops (.ldrImmT2 rt imm8) s (lowReg rt) 4 (indexed true true (s.getCore 13) i8) ∧
       LoadStops (.ldrLitT1 rt imm8) s (lowReg rt) 4 (indexed true true (align4 s.pcValue) i8)) ∧
     (∀ (rn rt rm : BitVec 4) (p u w : Bool) (imm12 : BitVec 12) (imm8 : BitVec 8) (imm2 : BitVec 2),
       let x := s.operand rn;
       let i12 : Word := imm12.setWidth 32;
       let i8 : Word := imm8.setWidth 32;
       let off := shift (s.operand rm) .lsl imm2.toNat s.carry;
       (rt = 15 → s.inITBlock = true → s.lastInITBlock = true) →
       LoadStops (.ldrLitT2 u rt imm12) s rt 4 (indexed true u (align4 s.pcValue) i12) ∧
       (rn ≠ 15 →
         LoadStops (.ldrImmT3 rn rt imm12) s rt 4 (indexed true true x i12) ∧
         (badReg rm = false →
           LoadStops (.ldrRegT2 rn rt imm2 rm) s rt 4 (indexed true true x off)) ∧
         ((p = true ∨ w = true) → ¬ (p = true ∧ u = true ∧ w = false) → (w = true → rn ≠ rt) →
           LoadStops (.ldrImmT4 rn rt p u w imm8) s rt 4 (indexed p u x i8))))) ∧
    ((∀ (cond : BitVec 4) (p u w : Bool) (rn rt rm : BitVec 4) (imm12 : BitVec 12) (imm5 : BitVec 5) (ty : BitVec 2),
       let x := s.operand rn;
       let imm : Word := imm12.setWidth 32;
       let off := shift (s.operand rm) (decodeImmShift ty imm5).1 (decodeImmShift ty imm5).2 s.carry;
       (p = false → w = false) → rt ≠ 15 →
       LoadStops (.ldrbLitA1 cond u rt imm12) s rt 1 (indexed true u (align4 s.pcValue) imm) ∧
       (rn ≠ 15 → ((p = false ∨ w = true) → rn ≠ rt) →
         LoadStops (.ldrbImmA1 cond p u w rn rt imm12) s rt 1 (indexed p u x imm)) ∧
       (rm ≠ 15 → ((p = false ∨ w = true) → rn ≠ 15 ∧ rn ≠ rt) →
         LoadStops (.ldrbRegA1 cond p u w rn rt imm5 ty rm) s rt 1 (indexed p u x off))) ∧
     (∀ (rn rt rm : BitVec 3) (imm5 : BitVec 5),
       let x := s.operand (lowReg rn);
       let i5 : Word := imm5.setWidth 32;
       LoadStops (.ldrbImmT1 imm5 rn rt) s (lowReg rt) 1 (indexed true true x i5) ∧
       LoadStops (.ldrbRegT1 rm rn rt) s (lowReg rt) 1 (indexed true true x (s.operand (lowReg rm)))) ∧
     (∀ (rn rt rm : BitVec 4) (p u w : Bool) (imm12 : BitVec 12) (imm8 : BitVec 8) (imm2 : BitVec 2),
       let x := s.operand rn;
       let i12 : Word := imm12.setWidth 32;
       let i8 : Word := imm8.setWidth 32;
       let off := shift (s.operand rm) .lsl imm2.toNat s.carry;
       badReg rt = false →
       LoadStops (.ldrbLitT1 u rt imm12) s rt 1 (indexed true u (align4 s.pcValue) i12) ∧
       (rn ≠ 15 →
         LoadStops (.ldrbImmT2 rn rt imm12) s rt 1 (indexed true true x i12) ∧
         (badReg rm = false →
           LoadStops (.ldrbRegT2 rn rt imm2 rm) s rt 1 (indexed true true x off)) ∧
         ((p = true ∨ w = true) → ¬ (p = true ∧ u = true ∧ w = false) → (w = true → rn ≠ rt) →
           LoadStops (.ldrbImmT3 rn rt p u w imm8) s rt 1 (indexed p u x i8))))) ∧
    ((s.inITBlock = true → s.lastInITBlock = true) → ∀ rn rm : BitVec 4, rn ≠ 13 → badReg rm = false →
      (Memory.readLE s.mem (s.operand rn + s.operand rm) 1 = none → StopsReading (.tbbT1 rn rm) s .accessFailure) ∧
      (Memory.readLE s.mem (s.operand rn + s.operand rm <<< 1) 2 = none → StopsReading (.tbhT1 rn rm) s .accessFailure)) ∧
    (∀ (cond : BitVec 4) (regs : BitVec 16), bitCount regs ≠ 0 → (regs.getLsbD 13 = true → s.arch.version < 7) →
      LoadManyStops (.popA1 cond regs) s regs (s.getCore 13) 13 true) ∧
    (∀ cond rt : BitVec 4, rt ≠ 13 → LoadManyStops (.popA2 cond rt) s (oneReg rt) (s.getCore 13) 13 true) ∧
    (∀ (p : Bool) (regs : BitVec 8), bitCount (listP8 p regs) ≠ 0 →
      (p = true → s.inITBlock = true → s.lastInITBlock = true) →
      LoadManyStops (.popT1 p regs) s (listP8 p regs) (s.getCore 13) 13 true) ∧
    (∀ (p m : Bool) (regs : BitVec 13), 2 ≤ bitCount (listPM13 p m regs) → (p && m) = false →
      (p = true → s.inITBlock = true → s.lastInITBlock = true) →
      LoadManyStops (.popT2 p m regs) s (listPM13 p m regs) (s.getCore 13) 13 true) ∧
    (∀ rt : BitVec 4, rt ≠ 13 → (rt = 15 → s.inITBlock = true → s.lastInITBlock = true) →
      LoadManyStops (.popT3 rt) s (oneReg rt) (s.getCore 13) 13 true) ∧
    (∀ (cond : BitVec 4) (dbit : BitVec 1) (vd : BitVec 4) (imm8 : BitVec 8),
      (imm8.getLsbD 0 = false → 0 < imm8.toNat / 2 → imm8.toNat / 2 ≤ 16 → (dbit ++ vd).toNat + imm8.toNat / 2 ≤ 32 →
        VPopStops (.vpopA1 cond dbit vd imm8) s (extListD dbit vd imm8) ∧
        VPopStops (.vpopT1 dbit vd imm8) s (extListD dbit vd imm8)) ∧
      (0 < imm8.toNat → (vd ++ dbit).toNat + imm8.toNat ≤ 32 →
        VPopStops (.vpopA2 cond dbit vd imm8) s (extListS dbit vd imm8) ∧
        VPopStops (.vpopT2 dbit vd imm8) s (extListS dbit vd imm8))) ∧
    (∀ w : Bool,
      (∀ (cond rn : BitVec 4) (regs : BitVec 16), rn ≠ 15 → bitCount regs ≠ 0 →
        (w = true → regs.getLsbD rn.toNat = true → s.arch.version < 7) →
        LoadManyStops (.ldmA1 cond w rn regs) s regs (s.operand rn) rn w ∧
        LoadManyStops (.ldmdaA1 cond w rn regs) s regs (s.operand rn - listBytes regs + 4) rn w ∧
        LoadManyStops (.ldmdbA1 cond w rn regs) s regs (s.operand rn - listBytes regs) rn w ∧
        LoadManyStops (.ldmibA1 cond w rn regs) s regs (s.operand rn + 4) rn w) ∧
      (∀ (rn : BitVec 3) (regs : BitVec 8), bitCount (list8 regs) ≠ 0 →
        LoadManyStops (.ldmT1 rn regs) s (list8 regs) (s.operand (lowReg rn)) (lowReg rn) (!(list8 regs).getLsbD (lowReg rn).toNat)) ∧
      (∀ (rn : BitVec 4) (p m : Bool) (regs : BitVec 13), rn ≠ 15 → 2 ≤ bitCount (listPM13 p m regs) → (p && m) = false →
        (p = true → s.inITBlock = true → s.lastInITBlock = true) →
        (w = true → (listPM13 p m regs).getLsbD rn.toNat = false) →
        LoadManyStops (.ldmT2 w rn p m regs) s (listPM13 p m regs) (s.operand rn) rn w ∧
        LoadManyStops (.ldmdbT1 w rn p m regs) s (listPM13 p m regs) (s.operand rn - listBytes (listPM13 p m regs)) rn w))

/-- Every instruction in every state answers a next state, and a failure other than a refused port call leaves the state as it was
but for successful reads (60_exceptions.md rules R400, R402, R405). -/
def Obligations.EveryInstructionAnswers : Prop :=
  ∀ (i : Instr) (s : State), ∃ t, exec i s = .next t ∧
    (t.fault = none ∨ t.fault = some .accessFailure ∨
      ∃ u f, Untouched s u ∧ t = { u with fault := some f } ∧ (f = .unsupportedEncoding ∨ f = .unpredictableOperands))

/-- A refused port call is the last of its instruction and every other one was answered (20_memory.md rule R61, 60_exceptions.md
rule R403); `PC_WRITTEN` is set by writes of core register 15 alone (10_state.md rule R28). -/
def Obligations.PortCallsOfAnInstruction : Prop :=
  ∀ (i : Instr) (s t : State), exec i s = .next t → ∃ calls : List PortCall, t.trace = calls ++ s.trace ∧
    t.pcWritten = (s.pcWritten || calls.any PortCall.writesPC) ∧
    (t.fault ≠ some .accessFailure → ∀ c ∈ calls, c.ok = true) ∧
    (t.fault = some .accessFailure → ∃ c rest, calls = c :: rest ∧ c.ok = false ∧ ∀ c' ∈ rest, c'.ok = true)

/-- No instruction changes the parameters, `ARCH`, the latch or the host's settings, and only IT changes the session
(10_state.md rules R22, R24, R27; 00_scope.md rule R6). An `evaluateInstruction` that returns false, and so a turn of the run
loop that fails, leaves the session as it was, that of an IT whose PC advance is refused too, and no valid latch
(41_condition_it.md rule R178 (c), 49_svc_driver.md rules R384, R392, 90_conflicts.md C3). -/
def Obligations.SettingsKept : Prop :=
  (∀ (i : Instr) (s t : State), exec i s = .next t →
    t.params = s.params ∧ t.arch = s.arch ∧ t.inst = s.inst ∧ t.refusals = s.refusals ∧ t.script = s.script ∧
    t.stopped = s.stopped ∧ ((∀ firstcond mask, i ≠ .itT1 firstcond mask) → t.it = s.it)) ∧
  (∀ s t : State, evaluateInstruction s = .next t → t.fault ≠ none →
    t.it = s.it ∧ t.inst.valid = false ∧ t.arch = s.arch ∧ t.params = s.params) ∧
  (∀ s t : State, s.script = [] → step s = .next t → t.fault ≠ none →
    t.it = s.it ∧ t.inst.valid = false ∧ t.arch = s.arch ∧ t.params = s.params)

/-- `MODE` and bit T of the status register agree after every completed instruction and every completed turn of the run loop
(10_state.md rule R26, 46_branch.md rule R304). -/
def Obligations.ModeFollowsTheStatusRegister : Prop :=
  (∀ (i : Instr) (s t : State), ModeMatches s → exec i s = .next t → t.fault = none → ModeMatches t) ∧
  (∀ s t : State, s.script = [] → step s = .next t → t.fault = none →
    t.mode ≠ .invalid ∧ (flagT t.status = true ↔ t.mode = .thumb))

/-- Every step keeps the invariant: memory in canonical form, a well-formed IT session (10_state.md rule R27), a well-formed latch
(rule R22). -/
def Obligations.InvariantKept : Prop :=
  ∀ s t : State, s.Inv → step s = .next t → t.Inv

/-- The reset state has the invariant (70_reset_and_hazards.md rule R440). -/
def Obligations.InvariantAtReset : Prop :=
  State.reset.Inv

/-- Decoding the bytes of a well-formed ARM instruction gives it back, and leaves the bytes after it (30_encoding.md rules R90
to R104; 20_memory.md rule R64). -/
def Obligations.RoundTripArm : Prop :=
  ∀ (i : Instr) (rest : List Byte), i.form = (.arm, .w32) → i.wellFormed = true →
    decodeBytes .arm (encodeBytes i ++ rest) = .ok (i, rest)

/-- Decoding the bytes of a well-formed 16-bit Thumb instruction gives it back, and leaves the bytes after it (30_encoding.md rules R90
to R104; 20_memory.md rule R64). -/
def Obligations.RoundTripThumb16 : Prop :=
  ∀ (i : Instr) (rest : List Byte), i.form = (.thumb, .w16) → i.wellFormed = true →
    decodeBytes .thumb (encodeBytes i ++ rest) = .ok (i, rest)

/-- Decoding the bytes of a well-formed 32-bit Thumb instruction gives it back, and leaves the bytes after it (30_encoding.md rules R90
to R104; 20_memory.md rule R64). -/
def Obligations.RoundTripThumb32 : Prop :=
  ∀ (i : Instr) (rest : List Byte), i.form = (.thumb, .w32) → i.wellFormed = true →
    decodeBytes .thumb (encodeBytes i ++ rest) = .ok (i, rest)

/-- A turn of the run loop runs the instruction whose bytes stand at the PC (49_svc_driver.md rules R383, R384, R386, R389, R390,
R393). -/
def Obligations.StepRunsTheDecodedInstruction : Prop :=
  ∀ (s : State) (i : Instr), s.served → s.script = [] → s.stopped = false → s.params.haltAddress ≠ some (s.getCore 15) →
    FetchesAt s i → lookup s.params s.arch s.nextSet i.form.2 (encode i) = some i →
    ∃ reads : List PortCall, (∀ c ∈ reads, c.isWrite = false ∧ c.ok = true) ∧
      let s1 := s.fetched i reads;
      (conditionPassed (currentCond s1 i) s.status = false → step s = .next (s1.retired s1.inITBlock)) ∧
      (conditionPassed (currentCond s1 i) s.status = true → ∀ t, exec i s1 = .next t →
        (t.fault = none → step s = .next (t.retired s1.inITBlock)) ∧
        (t.fault ≠ none → step s = .next { t with stopped := true }))

/-- Words written out bit by bit from the formats and tables of 30_encoding.md (rules R100 to R104), decoded. -/
def Obligations.WrittenOutWordsDecode : Prop :=
  decode .arm .w32 0b1110_0000_1011_0001_0010_0000_0000_0011 = some (.adcRegA1 14 true 1 2 0 0 3) ∧
  decode .arm .w32 0b1110_0101_1001_0010_0001_0000_0000_0100 = some (.ldrImmA1 14 true true false 2 1 4) ∧
  decode .arm .w32 0b1110_1001_0010_1101_0100_0000_0001_0000 = some (.pushA1 14 0b0100000000010000) ∧
  decode .arm .w32 0b0001_1011_0000_0000_0000_0000_0000_0001 = some (.blImmA1 1 1) ∧
  decode .arm .w32 0b1110_1111_0000_0000_0000_0000_0010_1010 = some (.svcA1 14 42) ∧
  decode .thumb .w16 0b0100_0001_0101_0001 = some (.adcRegT1 2 1) ∧
  decode .thumb .w16 0b1011_1111_0001_1000 = some (.itT1 1 8) ∧
  decode .thumb .w16 0b1011_0001_0000_1010 = some (.cbzT1 0 1 2) ∧
  decode .thumb .w32 0b1110_1001_0010_1101_0100_0000_0001_0000 = some (.pushT2 true 0b0000000010000) ∧
  decode .thumb .w32 0b1111_0001_0000_0011_0000_0001_0000_0101 = some (.addImmT3 0 false 3 0 1 5) ∧
  decode .thumb .w32 0b1110_1000_1101_0001_1111_0000_0001_0010 = some (.tbhT1 1 2)

/-- `AddWithCarry` (40_primitives.md rule R140): result, carry-out and overflow. -/
def Obligations.AdderResult : Prop :=
  ∀ (x y : Word) (c : Bool),
    let usum := x.toNat + y.toNat + c.toNat;
    let r := addWithCarry x y c;
    r.result.toNat = usum % 2 ^ 32 ∧ (r.carry = true ↔ 2 ^ 32 ≤ usum) ∧
    (r.overflow = true ↔ x.msb = y.msb ∧ r.result.msb ≠ x.msb) ∧
    (r.overflow = true ↔ r.result.toInt ≠ x.toInt + y.toInt + c.toNat)

/-- `ConditionPassed` (41_condition_it.md rule R175) on a status value: the sixteen conditions. -/
def Obligations.ConditionCodes : Prop :=
  ∀ cpsr : Word,
    let n := flagN cpsr;
    let z := flagZ cpsr;
    let c := flagC cpsr;
    let v := flagV cpsr;
    let passes := fun k : BitVec 4 => conditionPassed k cpsr;
    passes 0 = z ∧ passes 1 = !z ∧ passes 2 = c ∧ passes 3 = !c ∧ passes 4 = n ∧ passes 5 = !n ∧ passes 6 = v ∧ passes 7 = !v ∧
    passes 8 = (c && !z) ∧ passes 9 = (!c || z) ∧ passes 10 = (n == v) ∧ passes 11 = (n != v) ∧
    passes 12 = (!z && n == v) ∧ passes 13 = (z || n != v) ∧ passes 14 = true ∧ passes 15 = true

/-- `InitIT` and `ITAdvance` (41_condition_it.md rules R171, R173): which sessions start and how they end. -/
def Obligations.ITSessionLife : Prop :=
  (∀ byte : BitVec 8, let mask := byte.extractLsb' 0 4
    let firstcond := byte.extractLsb' 4 4;
    (initIT byte = none ↔ mask = 0 ∨ firstcond = 15 ∨ (firstcond = 14 ∧ trailingZeros mask ≠ 3)) ∧
    (∀ x, initIT byte = some x → x = { state := byte, remaining := 4 - trailingZeros mask } ∧
      ∀ k ≤ x.remaining, (itAdvance^[k] x).remaining = x.remaining - k ∧ ((itAdvance^[k] x).state = 0 ↔ k = x.remaining))) ∧
  (∀ x : ITSession, 0 < x.remaining →
    itAdvance x = if x.remaining = 1 then { state := 0, remaining := 0 }
      else { state := x.state &&& 0xe0 ||| x.state <<< 1 &&& 0x1f, remaining := x.remaining - 1 })

/-- The PC-write policies (46_branch.md rules R300 to R303) as handlers, in every state: which value is written to the PC, with which
tag, and when the instruction set is selected first. -/
def Obligations.PcWritePolicies : Prop :=
  ∀ (s : State) (ctx : Context) (a : Word),
    branchWritePC ctx a s = writeReg ctx 15 (if s.mode = .arm then a &&& 0xfffffffc else a &&& 0xfffffffe) s ∧
    bxWritePC ctx a s =
      (if a.getLsbD 0 then (do selectInstrSet .thumb; writeReg ctx 15 (a &&& 0xfffffffe) : Handler Unit) s
        else (do selectInstrSet .arm; writeReg ctx 15 (a &&& 0xfffffffc) : Handler Unit) s) ∧
    loadWritePC ctx a s = (if 5 ≤ s.arch.version then bxWritePC ctx a s else branchWritePC ctx a s) ∧
    aluWritePC ctx a s = (if 7 ≤ s.arch.version ∧ s.mode = .arm then bxWritePC ctx a s else branchWritePC ctx a s) ∧
    (∀ v t, writeReg ctx 15 v s = .ok () t → t.pcWritten = true ∧ t.getCore 15 = v)

/-- `setArchitecture` (49_svc_driver.md rule R381): the ten names, letter case ignored; anything else selects version 0 and
fails. Which letters have a case is the model's choice (log 16, DEDUCED): A to Z alone, so a name with any other letter is
one of "anything else". -/
def Obligations.SelectingAnArchitecture : Prop :=
  ∀ (s : State) (name : List Char),
    let known : List (String × ArchVariant) :=
      [ ("armv4", .armv4), ("armv4t", .armv4t), ("armv5t", .armv5t), ("armv5te", .armv5te), ("armv5tej", .armv5tej),
        ("armv6", .armv6), ("armv6k", .armv6k), ("armv6t2", .armv6t2), ("armv7", .armv7), ("armv8", .armv8) ]
    (∀ p ∈ known, name.map Char.toLower = p.1.toList → setArchitecture name s = { s with arch := p.2, fault := none }) ∧
    ((∀ p ∈ known, name.map Char.toLower ≠ p.1.toList) →
      setArchitecture name s = { s with arch := .unknown, fault := some .invalidArchitecture })

/-- `evaluateInstruction` where no handler runs: no valid latch (49_svc_driver.md rule R391), no matching row (60_exceptions.md rule
R401 (a)), a failed condition (rule R386). -/
def Obligations.EvaluateWithoutAHandler : Prop :=
  ∀ s : State,
    (s.inst.valid = false → evaluateInstruction s = .next { s with fault := some .noInstruction }) ∧
    (s.inst.valid = true → lookup s.params s.arch s.inst.mode s.inst.width s.inst.raw = none →
      evaluateInstruction s = .next { s with
        inst := { s.inst with valid := false }
        pcWritten := false
        cpsrOut := s.inst.cpsr
        fault := some .unsupportedEncoding }) ∧
    (∀ i, s.inst.valid = true → lookup s.params s.arch s.inst.mode s.inst.width s.inst.raw = some i →
      conditionPassed (currentCond s i) s.inst.cpsr = false → s.served →
      ∃ t, evaluateInstruction s = .next t ∧ t.fault = none ∧
        t.core = (if s.params.autoAdvancePc = true
          then (s.setCore 15 (s.inst.addr + if s.inst.width = .w16 then 2 else 4)).core else s.core) ∧
        t.it = (if s.inITBlock = true then itAdvance s.it else s.it) ∧
        t.status = s.status ∧ t.mode = s.mode ∧ t.mem = s.mem ∧ t.ext = s.ext ∧ t.inst.valid = false)

/-- `readInstruction` (49_svc_driver.md rule R383) where the host refuses nothing: what is latched, and when it fails
(60_exceptions.md rule R404). -/
def Obligations.ReadingAnInstruction : Prop :=
  ∀ s : State, s.served →
    let pc := s.getCore 15;
    let thumb := flagT s.status;
    let latched := fun (raw : Word) (width : Width) => ∃ reads : List PortCall,
      readInstruction s = { s with
        mode := modeOf s.nextSet
        inst := { valid := true, raw := raw, width := width, mode := s.nextSet, addr := pc, cpsr := s.status }
        fault := none
        trace := reads ++ s.trace } ∧ ∀ c ∈ reads, c.isWrite = false
    let fails := (readInstruction s).fault = some .fetchFailure ∧ (readInstruction s).mode = .invalid ∧
      (readInstruction s).inst.valid = false ∧ (readInstruction s).it = s.it ∧ (readInstruction s).arch = s.arch ∧
      (readInstruction s).core = s.core ∧ (readInstruction s).mem = s.mem ∧ (readInstruction s).status = s.status
    (thumb = false → pc.extractLsb' 0 2 = 0 → ∀ w, Memory.readLE s.mem pc 4 = some w → latched (w.setWidth 32) .w32) ∧
    (thumb = true → pc.getLsbD 0 = false → ∀ h1, Memory.readLE s.mem pc 2 = some h1 →
      (thumbIsWide (h1.setWidth 16) = false → latched (h1.setWidth 32) .w16) ∧
      (thumbIsWide (h1.setWidth 16) = true →
        (∀ h2, Memory.readLE s.mem (pc + 2) 2 = some h2 → latched (h1.setWidth 16 ++ h2.setWidth 16) .w32) ∧
        (Memory.readLE s.mem (pc + 2) 2 = none → fails))) ∧
    (thumb = false → pc.extractLsb' 0 2 ≠ 0 ∨ Memory.readLE s.mem pc 4 = none → fails) ∧
    (thumb = true → pc.getLsbD 0 = true ∨ Memory.readLE s.mem pc 2 = none → fails)

/-- The round-trip property (42_stack.md rule R205): a POP of the same set from the SP a PUSH left restores the registers and SP, for
every encoding pair; the same for VPUSH and VPOP. -/
def Obligations.PushThenPop : Prop :=
  (∀ (s s1 t : State) (regs : BitVec 16) (i j : Instr), s.served → t.served → PushOf regs i → PopOf regs j →
    bitCount regs ≠ 0 → regs.getLsbD 13 = false → regs.getLsbD 15 = false →
    exec i s = .next s1 → t.mem = s1.mem → t.getCore 13 = s1.getCore 13 →
    ∃ u, exec j t = .next u ∧ u.fault = none ∧ u.getCore 13 = s.getCore 13 ∧
      ∀ k, regs.getLsbD k.toNat = true → u.getCore k = s.getCore k) ∧
  (∀ (s s1 t : State) (l : ExtList) (i j : Instr), s.served → t.served → VPushOf l i → VPopOf l j →
    exec i s = .next s1 → t.mem = s1.mem → t.getCore 13 = s1.getCore 13 →
    ∃ u, exec j t = .next u ∧ u.fault = none ∧ u.getCore 13 = s.getCore 13 ∧
      ∀ n ∈ l.numbers, u.regValue (l.reg n) = s.regValue (l.reg n))

/-- The scan of the decode tables (30_encoding.md rule R92) and its two filters: by variant (rule R93) and of ARM words with bits
31:28 = 1111 (rule R94). That a strict 1111 word fails in stage Decode is the model's choice (log 13, DEDUCED: R94 names no
stage); such a word keeps the instruction of a BLX (immediate) A2 row that the scan selects, and has no other. -/
def Obligations.RowFilters : Prop :=
  ∀ (p : Params) (arch : ArchVariant) (set : InstrSet) (width : Width) (raw : Word),
    let strictWord := p.strictCond1111 = true ∧ set = .arm ∧ raw.extractLsb' 28 4 = 15;
    (p.strictVariantGating = false → ¬ strictWord → lookup p arch set width raw = decode set width raw) ∧
    (∀ i, lookup p arch set width raw = some i →
      (∃ (k : Nat) (r : Row), (tableOf set width)[k]? = some r ∧ r.hits raw = true ∧ r.build raw = i ∧
        (p.strictVariantGating = true → r.variants.admits arch = true) ∧
        ∀ j < k, ∀ r', (tableOf set width)[j]? = some r' → r'.hits raw = true →
          p.strictVariantGating = true ∧ r'.variants.admits arch = false) ∧
      (strictWord → ∃ h imm24, i = .blxImmA2 h imm24)) ∧
    (strictWord → ∀ h imm24, lookup { p with strictCond1111 := false } arch set width raw = some (.blxImmA2 h imm24) →
      lookup p arch set width raw = some (.blxImmA2 h imm24)) ∧
    (¬ strictWord → lookup p arch set width raw = none →
      ∀ r ∈ tableOf set width, r.hits raw = true → p.strictVariantGating = true ∧ r.variants.admits arch = false)

/-- The reset values of the block (70_reset_and_hazards.md rule R440), whatever the parameters and the environment: `newInstance` leaves
the environment alone (rule R441), and `State.reset` is such an instance. -/
def Obligations.ResetValues : Prop :=
  (∀ (p : Params) (s : State),
    let t := newInstance p s;
    t.arch = .unknown ∧ t.arch.version = 0 ∧ t.mode = .invalid ∧ t.it = { state := 0, remaining := 0 } ∧
    t.inst.valid = false ∧ t.fault = none ∧ t.params = p ∧ t.core = s.core ∧ t.status = s.status ∧ t.ext = s.ext ∧
    t.mem = s.mem ∧ t.trace = s.trace ∧ evaluateInstruction t = .next { t with fault := some .noInstruction }) ∧
  State.reset.arch = .unknown ∧ State.reset.mode = .invalid ∧ State.reset.it = { state := 0, remaining := 0 } ∧
  State.reset.inst.valid = false ∧ State.reset.fault = none ∧ State.reset.params = Params.default

/-- The ends of a run (49_svc_driver.md rule R393): at `HALT_ADDRESS` nothing is fetched, and a run does not continue past a failure. -/
def Obligations.RunLoopStops : Prop :=
  ∀ s : State, s.script = [] →
    (s.stopped = true → step s = .fault (.stopped s.fault)) ∧
    (s.stopped = false → s.params.haltAddress = some (s.getCore 15) → step s = .fault .halted) ∧
    (s.stopped = false → s.params.haltAddress ≠ some (s.getCore 15) →
      ∃ t, step s = .next t ∧ (t.stopped = true ↔ t.fault ≠ none))

/-- `Shift_C`, `DecodeImmShift`, `ARMExpandImm_C` and `ThumbExpandImm_C` (40_primitives.md rule R150; 30_encoding.md rules R105 to R107)
in terms of the shifts of bit vectors. -/
def Obligations.ShifterAndExpansions : Prop :=
  (∀ (x : Word) (c : Bool) (n : Nat),
    shiftC x .rrx 1 c = (BitVec.ofBool c ++ x.extractLsb' 1 31, x.getLsbD 0) ∧
    (∀ ty, ty ≠ .rrx → shiftC x ty 0 c = (x, c)) ∧
    (0 < n →
      shiftC x .lsl n c = (x <<< n, decide (n ≤ 32) && x.getLsbD (32 - n)) ∧
      shiftC x .lsr n c = (x >>> n, x.getLsbD (n - 1)) ∧
      shiftC x .asr n c = (x.sshiftRight n, if n < 32 then x.getLsbD (n - 1) else x.msb) ∧
      shiftC x .ror n c = (x.rotateRight (n % 32), (x.rotateRight (n % 32)).msb))) ∧
  (∀ imm5 : BitVec 5,
    decodeImmShift 0 imm5 = (.lsl, imm5.toNat) ∧ decodeImmShift 1 imm5 = (.lsr, if imm5 = 0 then 32 else imm5.toNat) ∧
    decodeImmShift 2 imm5 = (.asr, if imm5 = 0 then 32 else imm5.toNat) ∧
    decodeImmShift 3 imm5 = if imm5 = 0 then (.rrx, 1) else (.ror, imm5.toNat)) ∧
  (∀ (rot : BitVec 4) (b : BitVec 8) (c : Bool),
    armExpandImmC (rot ++ b) c =
      let v : Word := (b.setWidth 32).rotateRight (2 * rot.toNat);
      (v, if rot = 0 then c else v.msb)) ∧
  (∀ (b : BitVec 8) (c : Bool),
    thumbExpandImmC (0#4 ++ b) c = some (0#24 ++ b, c) ∧
    thumbExpandImmC (1#4 ++ b) c = (if b = 0 then none else some (0#8 ++ b ++ 0#8 ++ b, c)) ∧
    thumbExpandImmC (2#4 ++ b) c = (if b = 0 then none else some (b ++ 0#8 ++ b ++ 0#8, c)) ∧
    thumbExpandImmC (3#4 ++ b) c = (if b = 0 then none else some (b ++ b ++ b ++ b, c))) ∧
  (∀ (rot : BitVec 5) (b : BitVec 7) (c : Bool), 8 ≤ rot.toNat →
    thumbExpandImmC (rot ++ b) c =
      let v : Word := (0#24 ++ 1#1 ++ b).rotateRight rot.toNat;
      some (v, v.msb))

/-- Memory as bytes (10_state.md rule R36; 20_memory.md rules R62, R63, R64): little-endian, modulo 2^32, one canonical form. -/
def Obligations.MemoryBytes : Prop :=
  ∀ (m : Memory) (a : Word) (v : DWord) (n : Nat), n ≤ 8 → m.wf →
    let t := Memory.writeLE m a v n;
    t.wf ∧ Memory.readLE t a n = some (lowBytes v n) ∧
    (∀ k < n, Memory.read? t (a + BitVec.ofNat 32 k).toNat = some (v.extractLsb' (8 * k) 8)) ∧
    (∀ x, (∀ k < n, x ≠ (a + BitVec.ofNat 32 k).toNat) → Memory.read? t x = Memory.read? m x) ∧
    (∀ m' : Memory, m'.wf → (∀ x, Memory.read? m' x = Memory.read? t x) → m' = t)

/-- The port writes of five ARM forms, in order, with their tags (20_memory.md rules R75, R78; 43_dp_arith.md rule R221;
48_load_store_single.md rule R350; 42_stack.md rule R201): ADD and SUB (immediate) A1 with a destination other than the PC,
CMP (immediate) A1, STR (immediate) A1 with P = 1, U = 1, W = 0, and PUSH A2. How the calls are ordered in the trace and how a
payload writes an offset is the model's choice (log 11, DESIGN CHOICE); the payload of ADD and SUB on SP is that of log 12
(DEDUCED). -/
def Obligations.TaggedWrites : Prop :=
  ∀ s : State, s.served → ∀ (cond : BitVec 4) (setS : Bool) (rn rd : BitVec 4) (imm12 : BitVec 12),
    let ctx := fun change : Word => if rn = 13 then
      (if rd = 13 then Context.adjustStackPointer change else .registerPlusOffset change) else .immediate
    let wrote := fun (i : Instr) (ws : State → List PortCall) => ∃ t, exec i s = .next t ∧ t.fault = none ∧ t.writes = ws t ++ s.writes;
    let result := fun t : State => (if setS = true then [.writeRegister .immediate .status (t.status.setWidth 64) true] else []) ++
      [.writeRegister (ctx (t.getCore rd - s.operand rn)) (.core rd) ((t.getCore rd).setWidth 64) true]
    (rd ≠ 15 → wrote (.addImmA1 cond setS rn rd imm12) result ∧ wrote (.subImmA1 cond setS rn rd imm12) result) ∧
    (wrote (.cmpImmA1 cond rn imm12) fun t => [.writeRegister .immediate .status (t.status.setWidth 64) true]) ∧
    (wrote (.strImmA1 cond true true false rn rd imm12) fun _ =>
      [.writeMemory (.registerStore rd rn (imm12.setWidth 32)) (s.operand rn + imm12.setWidth 32) 4
        ((s.operand rd).setWidth 64) true]) ∧
    (rd ≠ 13 → wrote (.pushA2 cond rd) fun t =>
      [.writeRegister (.adjustStackPointer (-4)) (.core 13) ((t.getCore 13).setWidth 64) true,
        .writeMemory (.stackPush (.core rd) (-4)) (s.getCore 13 - 4) 4 ((s.operand rd).setWidth 64) true])

end
end

