-- ==== Sys2Proof/Laws/Memory.lean ====
section
/-! SUPPORT. Laws of memory: read after write, writes leave other addresses alone, every operation keeps the canonical form,
and what a little-endian write leaves at each of its bytes. -/

namespace Sys2Proof.Machine

/-! ## One byte -/

theorem Memory.read?_write_same (m : Memory) (a : Nat) (b : Byte) : Memory.read? (Memory.write m a b) a = some b := by
  induction m with
  | nil => simp [Memory.write, Memory.read?]
  | cons c rest ih =>
    obtain ⟨k, v⟩ := c
    simp only [Memory.write]
    split
    · simp [Memory.read?]
    · split
      · simp [Memory.read?]
      · have : k ≠ a := by omega
        simp [Memory.read?, this, ih]

theorem Memory.read?_write_other (m : Memory) {a x : Nat} (b : Byte) (h : x ≠ a) :
    Memory.read? (Memory.write m a b) x = Memory.read? m x := by
  induction m with
  | nil => simp [Memory.write, Memory.read?, Ne.symm h]
  | cons c rest ih =>
    obtain ⟨k, v⟩ := c
    simp only [Memory.write]
    split
    · simp [Memory.read?, Ne.symm h]
    · split
      · rename_i h1 h2
        subst h2
        simp [Memory.read?, Ne.symm h]
      · simp [Memory.read?, ih]

/-- What one byte write leaves at every address. -/
theorem Memory.read?_write (m : Memory) (a x : Nat) (b : Byte) :
    Memory.read? (Memory.write m a b) x = if x = a then some b else Memory.read? m x := by
  split
  · rename_i h; subst h; exact Memory.read?_write_same m x b
  · rename_i h; exact Memory.read?_write_other m b h

theorem Memory.mem_write {m : Memory} {a : Nat} {b : Byte} {c : Host.Cell} (h : c ∈ Memory.write m a b) :
    c = (a, b) ∨ c ∈ m := by
  induction m with
  | nil => simpa [Memory.write] using h
  | cons d rest ih =>
    obtain ⟨k, v⟩ := d
    simp only [Memory.write] at h
    split at h
    · simpa using h
    · split at h
      · rcases List.mem_cons.mp h with h | h
        · exact .inl h
        · exact .inr (List.mem_cons_of_mem _ h)
      · rcases List.mem_cons.mp h with h | h
        · exact .inr (by simp [h])
        · rcases ih h with h | h
          · exact .inl h
          · exact .inr (List.mem_cons_of_mem _ h)

/-- A byte write keeps the canonical form. -/
theorem Memory.wf_write {m : Memory} {a : Nat} (b : Byte) (ha : a < 2 ^ 32) (h : Memory.wf m) :
    Memory.wf (Memory.write m a b) := by
  refine ⟨?_, fun c hc => ?_⟩
  · have hs := h.1
    clear h
    induction m with
    | nil => simp [Memory.write]
    | cons d rest ih =>
      obtain ⟨k, v⟩ := d
      rw [List.pairwise_cons] at hs
      simp only [Memory.write]
      split
      · rename_i hlt
        rw [List.pairwise_cons, List.pairwise_cons]
        refine ⟨fun x hx => ?_, hs⟩
        rcases List.mem_cons.mp hx with rfl | hx
        · exact hlt
        · exact Nat.lt_trans hlt (hs.1 x hx)
      · split
        · rename_i _ he
          subst he
          rw [List.pairwise_cons]
          exact ⟨fun x hx => hs.1 x hx, hs.2⟩
        · rw [List.pairwise_cons]
          refine ⟨fun x hx => ?_, ih hs.2⟩
          rcases Memory.mem_write hx with rfl | hx
          · show k < a
            omega
          · exact hs.1 x hx
  · rcases Memory.mem_write hc with rfl | hc
    · exact ha
    · exact h.2 c hc

/-- Unmapping an address keeps the canonical form. -/
theorem Memory.wf_erase {m : Memory} (a : Nat) (h : Memory.wf m) : Memory.wf (Memory.erase m a) :=
  ⟨h.1.filter _, fun c hc => h.2 c (List.mem_of_mem_filter hc)⟩

theorem Memory.read?_erase (m : Memory) (a x : Nat) :
    Memory.read? (Memory.erase m a) x = if x = a then none else Memory.read? m x := by
  induction m with
  | nil => simp [Memory.erase, Memory.read?]
  | cons c rest ih =>
    obtain ⟨k, v⟩ := c
    simp only [Memory.erase] at ih ⊢
    by_cases hk : k = a
    · subst hk
      simp only [ne_eq, not_true_eq_false, decide_false, Bool.false_eq_true, not_false_eq_true,
        List.filter_cons_of_neg, ih, Memory.read?]
      split <;> simp_all [eq_comm]
    · simp only [ne_eq, hk, not_false_eq_true, decide_true, List.filter_cons_of_pos, Memory.read?, ih]
      split
      · rename_i h; subst h; simp [hk]
      · rfl

/-! ## Little-endian values -/

/-- A little-endian write keeps the canonical form. -/
theorem Memory.wf_writeLE (n : Nat) : ∀ {m : Memory} (a : Word) (v : DWord), Memory.wf m → Memory.wf (Memory.writeLE m a v n) := by
  induction n with
  | zero => intro m a v h; exact h
  | succ n ih =>
    intro m a v h
    exact ih _ _ (Memory.wf_write _ a.isLt h)

theorem word_add_ofNat_succ (a : Word) (k : Nat) : a + 1 + BitVec.ofNat 32 k = a + BitVec.ofNat 32 (k + 1) := by
  apply BitVec.eq_of_toNat_eq
  have h1 : (1 : Word).toNat = 1 := rfl
  simp only [BitVec.toNat_add, BitVec.toNat_ofNat, h1]
  omega

theorem word_add_ofNat_ne {a : Word} {i j : Nat} (hi : i < 2 ^ 32) (hj : j < 2 ^ 32) (h : i ≠ j) :
    (a + BitVec.ofNat 32 i).toNat ≠ (a + BitVec.ofNat 32 j).toNat := by
  simp only [BitVec.toNat_add, BitVec.toNat_ofNat]
  have := a.isLt
  omega

/-- A write of `n` bytes leaves every other address alone. -/
theorem Memory.read?_writeLE_other (n : Nat) :
    ∀ (m : Memory) (a : Word) (v : DWord) (x : Nat), (∀ k < n, x ≠ (a + BitVec.ofNat 32 k).toNat) →
      Memory.read? (Memory.writeLE m a v n) x = Memory.read? m x := by
  induction n with
  | zero => intro m a v x _; rfl
  | succ n ih =>
    intro m a v x h
    simp only [Memory.writeLE]
    rw [ih]
    · exact Memory.read?_write_other _ _ (by simpa using h 0 (by omega))
    · intro k hk
      rw [word_add_ofNat_succ]
      exact h (k + 1) (by omega)

/-- Byte `k` of a write of `n` bytes is byte `k` of the value. -/
theorem Memory.read?_writeLE_byte (n : Nat) :
    ∀ (m : Memory) (a : Word) (v : DWord) (k : Nat), k < n → n ≤ 2 ^ 32 →
      Memory.read? (Memory.writeLE m a v n) (a + BitVec.ofNat 32 k).toNat = some ((v >>> (8 * k)).setWidth 8) := by
  induction n with
  | zero => intro m a v k hk; omega
  | succ n ih =>
    intro m a v k hk hn
    simp only [Memory.writeLE]
    cases k with
    | zero =>
      rw [Memory.read?_writeLE_other]
      · simp [Memory.read?_write_same]
      · intro j hj
        rw [word_add_ofNat_succ]
        exact word_add_ofNat_ne (by omega) (by omega) (by omega)
    | succ k =>
      rw [← word_add_ofNat_succ, ih _ _ _ k (by omega) (by omega)]
      rw [← BitVec.shiftRight_add]
      congr 3
      omega

/-- The bytes that a read of `n` bytes sees decide its value. -/
theorem Memory.readLE_congr (n : Nat) :
    ∀ {m m' : Memory} {a : Word},
      (∀ k < n, Memory.read? m (a + BitVec.ofNat 32 k).toNat = Memory.read? m' (a + BitVec.ofNat 32 k).toNat) →
      Memory.readLE m a n = Memory.readLE m' a n := by
  induction n with
  | zero => intros; rfl
  | succ n ih =>
    intro m m' a h
    have h0 := h 0 (by omega)
    have hr : Memory.readLE m (a + 1) n = Memory.readLE m' (a + 1) n := by
      apply ih
      intro k hk
      rw [word_add_ofNat_succ]
      exact h (k + 1) (by omega)
    simp only [Memory.readLE, hr]
    rw [show (a + BitVec.ofNat 32 0) = a from BitVec.add_zero a] at h0
    rw [h0]

/-- The value that `n` given bytes make. -/
theorem Memory.readLE_of_bytes (n : Nat) :
    ∀ {m : Memory} {a : Word} {v : DWord}, n ≤ 8 →
      (∀ k < n, Memory.read? m (a + BitVec.ofNat 32 k).toNat = some ((v >>> (8 * k)).setWidth 8)) →
      Memory.readLE m a n = some (lowBytes v n) := by
  induction n with
  | zero => intro m a v _ _; simp [Memory.readLE, lowBytes]
  | succ n ih =>
    intro m a v hn h
    have h0 := h 0 (by omega)
    have hr : Memory.readLE m (a + 1) n = some (lowBytes (v >>> 8) n) := by
      apply ih (by omega)
      intro k hk
      rw [word_add_ofNat_succ, h (k + 1) (by omega), ← BitVec.shiftRight_add]
      congr 3
      omega
    rw [show (a + BitVec.ofNat 32 0) = a from BitVec.add_zero a] at h0
    simp only [Memory.readLE, hr, h0]
    congr 1
    apply BitVec.eq_of_getLsbD_eq
    intro i hi
    have key : ∀ (p : Nat), p ≤ 64 → ∀ j < 64, ((1#64 <<< p) - 1).getLsbD j = decide (j < p) := by
      intro p hp j hj
      interval_cases p <;> revert j <;> decide
    simp only [lowBytes, BitVec.getLsbD_or, BitVec.getLsbD_shiftLeft, BitVec.getLsbD_and, BitVec.getLsbD_ushiftRight,
      BitVec.getLsbD_setWidth, key _ (by omega : 8 * (n + 1) ≤ 64) i hi, hi, decide_true, Bool.true_and]
    by_cases h8 : i < 8
    · have : i < 8 * (n + 1) := by omega
      simp [h8, this]
    · rw [key (8 * n) (by omega) (i - 8) (by omega)]
      have e : 8 + (i - 8) = i := by omega
      by_cases h9 : i < 8 * (n + 1)
      · have : i - 8 < 8 * n := by omega
        simp [h8, h9, this, e]
      · have : ¬ i - 8 < 8 * n := by omega
        simp [h8, h9, this]

/-- Read after write (20_memory.md rules R62, R64): the low `8n` bits come back. -/
theorem Memory.readLE_writeLE (m : Memory) (a : Word) (v : DWord) {n : Nat} (hn : n ≤ 8) :
    Memory.readLE (Memory.writeLE m a v n) a n = some (lowBytes v n) :=
  Memory.readLE_of_bytes n hn fun k hk => Memory.read?_writeLE_byte n m a v k hk (by omega)

/-- A mixed-width read sees the bytes of the write (R64). -/
theorem Memory.readLE_byte_writeLE (m : Memory) (a : Word) (v : DWord) {n k : Nat} (hn : n ≤ 8) (hk : k < n) :
    Memory.readLE (Memory.writeLE m a v n) (a + BitVec.ofNat 32 k) 1 = some ((v >>> (8 * k)) &&& 0xff) := by
  have h := Memory.readLE_of_bytes 1 (m := Memory.writeLE m a v n) (a := a + BitVec.ofNat 32 k) (v := v >>> (8 * k)) (by omega)
    (by
      intro j hj
      obtain rfl : j = 0 := by omega
      rw [show a + BitVec.ofNat 32 k + BitVec.ofNat 32 0 = a + BitVec.ofNat 32 k from BitVec.add_zero _]
      simpa using Memory.read?_writeLE_byte n m a v k hk (by omega))
  simpa [lowBytes] using h

/-- A read of bytes that a write does not touch. -/
theorem Memory.readLE_writeLE_disjoint (m : Memory) (a b : Word) (v : DWord) (n k : Nat)
    (h : ∀ i < k, ∀ j < n, (b + BitVec.ofNat 32 i).toNat ≠ (a + BitVec.ofNat 32 j).toNat) :
    Memory.readLE (Memory.writeLE m a v n) b k = Memory.readLE m b k :=
  Memory.readLE_congr k fun i hi => Memory.read?_writeLE_other n m a v _ (h i hi)

end Sys2Proof.Machine
end

