-- ==== Sys2Proof/Laws/State.lean ====
section
/-! SUPPORT. One lemma per field per update, so that no later proof unfolds a record update; the register file's reads after
writes. -/

namespace Sys2Proof.Machine

/-! ### note -/

@[simp] theorem State.note_params (s : State) (c : PortCall) : (s.note c).params = s.params := rfl
@[simp] theorem State.note_arch (s : State) (c : PortCall) : (s.note c).arch = s.arch := rfl
@[simp] theorem State.note_mode (s : State) (c : PortCall) : (s.note c).mode = s.mode := rfl
@[simp] theorem State.note_it (s : State) (c : PortCall) : (s.note c).it = s.it := rfl
@[simp] theorem State.note_inst (s : State) (c : PortCall) : (s.note c).inst = s.inst := rfl
@[simp] theorem State.note_fault (s : State) (c : PortCall) : (s.note c).fault = s.fault := rfl
@[simp] theorem State.note_pcWritten (s : State) (c : PortCall) : (s.note c).pcWritten = s.pcWritten := rfl
@[simp] theorem State.note_cpsrOut (s : State) (c : PortCall) : (s.note c).cpsrOut = s.cpsrOut := rfl
@[simp] theorem State.note_core (s : State) (c : PortCall) : (s.note c).core = s.core := rfl
@[simp] theorem State.note_status (s : State) (c : PortCall) : (s.note c).status = s.status := rfl
@[simp] theorem State.note_ext (s : State) (c : PortCall) : (s.note c).ext = s.ext := rfl
@[simp] theorem State.note_mem (s : State) (c : PortCall) : (s.note c).mem = s.mem := rfl
@[simp] theorem State.note_refusals (s : State) (c : PortCall) : (s.note c).refusals = s.refusals := rfl
@[simp] theorem State.note_draws (s : State) (c : PortCall) : (s.note c).draws = s.draws := rfl
@[simp] theorem State.note_trace (s : State) (c : PortCall) : (s.note c).trace = c :: s.trace := rfl
@[simp] theorem State.note_script (s : State) (c : PortCall) : (s.note c).script = s.script := rfl
@[simp] theorem State.note_stopped (s : State) (c : PortCall) : (s.note c).stopped = s.stopped := rfl

/-! ### setCore -/

@[simp] theorem State.setCore_params (s : State) (n : RegNum) (v : Word) : (s.setCore n v).params = s.params := rfl
@[simp] theorem State.setCore_arch (s : State) (n : RegNum) (v : Word) : (s.setCore n v).arch = s.arch := rfl
@[simp] theorem State.setCore_mode (s : State) (n : RegNum) (v : Word) : (s.setCore n v).mode = s.mode := rfl
@[simp] theorem State.setCore_it (s : State) (n : RegNum) (v : Word) : (s.setCore n v).it = s.it := rfl
@[simp] theorem State.setCore_inst (s : State) (n : RegNum) (v : Word) : (s.setCore n v).inst = s.inst := rfl
@[simp] theorem State.setCore_fault (s : State) (n : RegNum) (v : Word) : (s.setCore n v).fault = s.fault := rfl
@[simp] theorem State.setCore_pcWritten (s : State) (n : RegNum) (v : Word) : (s.setCore n v).pcWritten = s.pcWritten := rfl
@[simp] theorem State.setCore_cpsrOut (s : State) (n : RegNum) (v : Word) : (s.setCore n v).cpsrOut = s.cpsrOut := rfl
@[simp] theorem State.setCore_core (s : State) (n : RegNum) (v : Word) : (s.setCore n v).core = s.core.set n.toNat v n.isLt := rfl
@[simp] theorem State.setCore_status (s : State) (n : RegNum) (v : Word) : (s.setCore n v).status = s.status := rfl
@[simp] theorem State.setCore_ext (s : State) (n : RegNum) (v : Word) : (s.setCore n v).ext = s.ext := rfl
@[simp] theorem State.setCore_mem (s : State) (n : RegNum) (v : Word) : (s.setCore n v).mem = s.mem := rfl
@[simp] theorem State.setCore_refusals (s : State) (n : RegNum) (v : Word) : (s.setCore n v).refusals = s.refusals := rfl
@[simp] theorem State.setCore_draws (s : State) (n : RegNum) (v : Word) : (s.setCore n v).draws = s.draws := rfl
@[simp] theorem State.setCore_trace (s : State) (n : RegNum) (v : Word) : (s.setCore n v).trace = s.trace := rfl
@[simp] theorem State.setCore_script (s : State) (n : RegNum) (v : Word) : (s.setCore n v).script = s.script := rfl
@[simp] theorem State.setCore_stopped (s : State) (n : RegNum) (v : Word) : (s.setCore n v).stopped = s.stopped := rfl

/-! ### setExt -/

@[simp] theorem State.setExt_params (s : State) (n : BitVec 5) (v : DWord) : (s.setExt n v).params = s.params := rfl
@[simp] theorem State.setExt_arch (s : State) (n : BitVec 5) (v : DWord) : (s.setExt n v).arch = s.arch := rfl
@[simp] theorem State.setExt_mode (s : State) (n : BitVec 5) (v : DWord) : (s.setExt n v).mode = s.mode := rfl
@[simp] theorem State.setExt_it (s : State) (n : BitVec 5) (v : DWord) : (s.setExt n v).it = s.it := rfl
@[simp] theorem State.setExt_inst (s : State) (n : BitVec 5) (v : DWord) : (s.setExt n v).inst = s.inst := rfl
@[simp] theorem State.setExt_fault (s : State) (n : BitVec 5) (v : DWord) : (s.setExt n v).fault = s.fault := rfl
@[simp] theorem State.setExt_pcWritten (s : State) (n : BitVec 5) (v : DWord) : (s.setExt n v).pcWritten = s.pcWritten := rfl
@[simp] theorem State.setExt_cpsrOut (s : State) (n : BitVec 5) (v : DWord) : (s.setExt n v).cpsrOut = s.cpsrOut := rfl
@[simp] theorem State.setExt_core (s : State) (n : BitVec 5) (v : DWord) : (s.setExt n v).core = s.core := rfl
@[simp] theorem State.setExt_status (s : State) (n : BitVec 5) (v : DWord) : (s.setExt n v).status = s.status := rfl
@[simp] theorem State.setExt_ext (s : State) (n : BitVec 5) (v : DWord) : (s.setExt n v).ext = s.ext.set n.toNat v n.isLt := rfl
@[simp] theorem State.setExt_mem (s : State) (n : BitVec 5) (v : DWord) : (s.setExt n v).mem = s.mem := rfl
@[simp] theorem State.setExt_refusals (s : State) (n : BitVec 5) (v : DWord) : (s.setExt n v).refusals = s.refusals := rfl
@[simp] theorem State.setExt_draws (s : State) (n : BitVec 5) (v : DWord) : (s.setExt n v).draws = s.draws := rfl
@[simp] theorem State.setExt_trace (s : State) (n : BitVec 5) (v : DWord) : (s.setExt n v).trace = s.trace := rfl
@[simp] theorem State.setExt_script (s : State) (n : BitVec 5) (v : DWord) : (s.setExt n v).script = s.script := rfl
@[simp] theorem State.setExt_stopped (s : State) (n : BitVec 5) (v : DWord) : (s.setExt n v).stopped = s.stopped := rfl

/-! ### raise -/

@[simp] theorem State.raise_params (s : State) (f : Failure) : (State.raise f s).params = s.params := rfl
@[simp] theorem State.raise_arch (s : State) (f : Failure) : (State.raise f s).arch = s.arch := rfl
@[simp] theorem State.raise_mode (s : State) (f : Failure) : (State.raise f s).mode = s.mode := rfl
@[simp] theorem State.raise_it (s : State) (f : Failure) : (State.raise f s).it = s.it := rfl
@[simp] theorem State.raise_inst (s : State) (f : Failure) : (State.raise f s).inst = s.inst := rfl
@[simp] theorem State.raise_fault (s : State) (f : Failure) : (State.raise f s).fault = some f := rfl
@[simp] theorem State.raise_pcWritten (s : State) (f : Failure) : (State.raise f s).pcWritten = s.pcWritten := rfl
@[simp] theorem State.raise_cpsrOut (s : State) (f : Failure) : (State.raise f s).cpsrOut = s.cpsrOut := rfl
@[simp] theorem State.raise_core (s : State) (f : Failure) : (State.raise f s).core = s.core := rfl
@[simp] theorem State.raise_status (s : State) (f : Failure) : (State.raise f s).status = s.status := rfl
@[simp] theorem State.raise_ext (s : State) (f : Failure) : (State.raise f s).ext = s.ext := rfl
@[simp] theorem State.raise_mem (s : State) (f : Failure) : (State.raise f s).mem = s.mem := rfl
@[simp] theorem State.raise_refusals (s : State) (f : Failure) : (State.raise f s).refusals = s.refusals := rfl
@[simp] theorem State.raise_draws (s : State) (f : Failure) : (State.raise f s).draws = s.draws := rfl
@[simp] theorem State.raise_trace (s : State) (f : Failure) : (State.raise f s).trace = s.trace := rfl
@[simp] theorem State.raise_script (s : State) (f : Failure) : (State.raise f s).script = s.script := rfl
@[simp] theorem State.raise_stopped (s : State) (f : Failure) : (State.raise f s).stopped = s.stopped := rfl

/-! ### succeed -/

@[simp] theorem State.succeed_params (s : State) : (s.succeed).params = s.params := rfl
@[simp] theorem State.succeed_arch (s : State) : (s.succeed).arch = s.arch := rfl
@[simp] theorem State.succeed_mode (s : State) : (s.succeed).mode = s.mode := rfl
@[simp] theorem State.succeed_it (s : State) : (s.succeed).it = s.it := rfl
@[simp] theorem State.succeed_inst (s : State) : (s.succeed).inst = s.inst := rfl
@[simp] theorem State.succeed_fault (s : State) : (s.succeed).fault = none := rfl
@[simp] theorem State.succeed_pcWritten (s : State) : (s.succeed).pcWritten = s.pcWritten := rfl
@[simp] theorem State.succeed_cpsrOut (s : State) : (s.succeed).cpsrOut = s.cpsrOut := rfl
@[simp] theorem State.succeed_core (s : State) : (s.succeed).core = s.core := rfl
@[simp] theorem State.succeed_status (s : State) : (s.succeed).status = s.status := rfl
@[simp] theorem State.succeed_ext (s : State) : (s.succeed).ext = s.ext := rfl
@[simp] theorem State.succeed_mem (s : State) : (s.succeed).mem = s.mem := rfl
@[simp] theorem State.succeed_refusals (s : State) : (s.succeed).refusals = s.refusals := rfl
@[simp] theorem State.succeed_draws (s : State) : (s.succeed).draws = s.draws := rfl
@[simp] theorem State.succeed_trace (s : State) : (s.succeed).trace = s.trace := rfl
@[simp] theorem State.succeed_script (s : State) : (s.succeed).script = s.script := rfl
@[simp] theorem State.succeed_stopped (s : State) : (s.succeed).stopped = s.stopped := rfl

/-! ### dropLatch -/

@[simp] theorem State.dropLatch_params (s : State) : (s.dropLatch).params = s.params := rfl
@[simp] theorem State.dropLatch_arch (s : State) : (s.dropLatch).arch = s.arch := rfl
@[simp] theorem State.dropLatch_mode (s : State) : (s.dropLatch).mode = s.mode := rfl
@[simp] theorem State.dropLatch_it (s : State) : (s.dropLatch).it = s.it := rfl
@[simp] theorem State.dropLatch_inst (s : State) : (s.dropLatch).inst = { s.inst with valid := false } := rfl
@[simp] theorem State.dropLatch_fault (s : State) : (s.dropLatch).fault = s.fault := rfl
@[simp] theorem State.dropLatch_pcWritten (s : State) : (s.dropLatch).pcWritten = s.pcWritten := rfl
@[simp] theorem State.dropLatch_cpsrOut (s : State) : (s.dropLatch).cpsrOut = s.cpsrOut := rfl
@[simp] theorem State.dropLatch_core (s : State) : (s.dropLatch).core = s.core := rfl
@[simp] theorem State.dropLatch_status (s : State) : (s.dropLatch).status = s.status := rfl
@[simp] theorem State.dropLatch_ext (s : State) : (s.dropLatch).ext = s.ext := rfl
@[simp] theorem State.dropLatch_mem (s : State) : (s.dropLatch).mem = s.mem := rfl
@[simp] theorem State.dropLatch_refusals (s : State) : (s.dropLatch).refusals = s.refusals := rfl
@[simp] theorem State.dropLatch_draws (s : State) : (s.dropLatch).draws = s.draws := rfl
@[simp] theorem State.dropLatch_trace (s : State) : (s.dropLatch).trace = s.trace := rfl
@[simp] theorem State.dropLatch_script (s : State) : (s.dropLatch).script = s.script := rfl
@[simp] theorem State.dropLatch_stopped (s : State) : (s.dropLatch).stopped = s.stopped := rfl

/-! ### beginEvaluate -/

@[simp] theorem State.beginEvaluate_params (s : State) : (s.beginEvaluate).params = s.params := rfl
@[simp] theorem State.beginEvaluate_arch (s : State) : (s.beginEvaluate).arch = s.arch := rfl
@[simp] theorem State.beginEvaluate_mode (s : State) : (s.beginEvaluate).mode = s.mode := rfl
@[simp] theorem State.beginEvaluate_it (s : State) : (s.beginEvaluate).it = s.it := rfl
@[simp] theorem State.beginEvaluate_inst (s : State) : (s.beginEvaluate).inst = { s.inst with valid := false } := rfl
@[simp] theorem State.beginEvaluate_fault (s : State) : (s.beginEvaluate).fault = s.fault := rfl
@[simp] theorem State.beginEvaluate_pcWritten (s : State) : (s.beginEvaluate).pcWritten = false := rfl
@[simp] theorem State.beginEvaluate_cpsrOut (s : State) : (s.beginEvaluate).cpsrOut = s.inst.cpsr := rfl
@[simp] theorem State.beginEvaluate_core (s : State) : (s.beginEvaluate).core = s.core := rfl
@[simp] theorem State.beginEvaluate_status (s : State) : (s.beginEvaluate).status = s.status := rfl
@[simp] theorem State.beginEvaluate_ext (s : State) : (s.beginEvaluate).ext = s.ext := rfl
@[simp] theorem State.beginEvaluate_mem (s : State) : (s.beginEvaluate).mem = s.mem := rfl
@[simp] theorem State.beginEvaluate_refusals (s : State) : (s.beginEvaluate).refusals = s.refusals := rfl
@[simp] theorem State.beginEvaluate_draws (s : State) : (s.beginEvaluate).draws = s.draws := rfl
@[simp] theorem State.beginEvaluate_trace (s : State) : (s.beginEvaluate).trace = s.trace := rfl
@[simp] theorem State.beginEvaluate_script (s : State) : (s.beginEvaluate).script = s.script := rfl
@[simp] theorem State.beginEvaluate_stopped (s : State) : (s.beginEvaluate).stopped = s.stopped := rfl

/-! ### stopIfFailed -/

@[simp] theorem State.stopIfFailed_params (s : State) : (s.stopIfFailed).params = s.params := rfl
@[simp] theorem State.stopIfFailed_arch (s : State) : (s.stopIfFailed).arch = s.arch := rfl
@[simp] theorem State.stopIfFailed_mode (s : State) : (s.stopIfFailed).mode = s.mode := rfl
@[simp] theorem State.stopIfFailed_it (s : State) : (s.stopIfFailed).it = s.it := rfl
@[simp] theorem State.stopIfFailed_inst (s : State) : (s.stopIfFailed).inst = s.inst := rfl
@[simp] theorem State.stopIfFailed_fault (s : State) : (s.stopIfFailed).fault = s.fault := rfl
@[simp] theorem State.stopIfFailed_pcWritten (s : State) : (s.stopIfFailed).pcWritten = s.pcWritten := rfl
@[simp] theorem State.stopIfFailed_cpsrOut (s : State) : (s.stopIfFailed).cpsrOut = s.cpsrOut := rfl
@[simp] theorem State.stopIfFailed_core (s : State) : (s.stopIfFailed).core = s.core := rfl
@[simp] theorem State.stopIfFailed_status (s : State) : (s.stopIfFailed).status = s.status := rfl
@[simp] theorem State.stopIfFailed_ext (s : State) : (s.stopIfFailed).ext = s.ext := rfl
@[simp] theorem State.stopIfFailed_mem (s : State) : (s.stopIfFailed).mem = s.mem := rfl
@[simp] theorem State.stopIfFailed_refusals (s : State) : (s.stopIfFailed).refusals = s.refusals := rfl
@[simp] theorem State.stopIfFailed_draws (s : State) : (s.stopIfFailed).draws = s.draws := rfl
@[simp] theorem State.stopIfFailed_trace (s : State) : (s.stopIfFailed).trace = s.trace := rfl
@[simp] theorem State.stopIfFailed_script (s : State) : (s.stopIfFailed).script = s.script := rfl
@[simp] theorem State.stopIfFailed_stopped (s : State) : (s.stopIfFailed).stopped = s.fault.isSome := rfl

/-! ## Registers -/

/-- A core register after a core write. -/
theorem State.getCore_setCore (s : State) (n k : RegNum) (v : Word) :
    (s.setCore n v).getCore k = if k = n then v else s.getCore k := by
  simp only [State.getCore, State.setCore, Vector.getElem_set]
  by_cases h : k = n
  · simp [h]
  · have : n.toNat ≠ k.toNat := fun e => h (BitVec.eq_of_toNat_eq e.symm)
    simp [h, this]

@[simp] theorem State.getCore_setCore_same (s : State) (n : RegNum) (v : Word) : (s.setCore n v).getCore n = v := by
  simp [State.getCore_setCore]

theorem State.getCore_setCore_other (s : State) {n k : RegNum} (v : Word) (h : k ≠ n) :
    (s.setCore n v).getCore k = s.getCore k := by
  simp [State.getCore_setCore, h]

/-- An extension register after an extension write. -/
theorem State.getExt_setExt (s : State) (n k : BitVec 5) (v : DWord) :
    (s.setExt n v).getExt k = if k = n then v else s.getExt k := by
  simp only [State.getExt, State.setExt, Vector.getElem_set]
  by_cases h : k = n
  · simp [h]
  · have : n.toNat ≠ k.toNat := fun e => h (BitVec.eq_of_toNat_eq e.symm)
    simp [h, this]

/-- Registers are read from the register file alone. -/
theorem State.getCore_congr {s t : State} (h : t.core = s.core) (k : RegNum) : t.getCore k = s.getCore k := by
  simp [State.getCore, h]

theorem State.getExt_congr {s t : State} (h : t.ext = s.ext) (k : BitVec 5) : t.getExt k = s.getExt k := by
  simp [State.getExt, h]

@[simp] theorem State.getCore_note (s : State) (c : PortCall) (k : RegNum) : (s.note c).getCore k = s.getCore k := rfl
@[simp] theorem State.getExt_note (s : State) (c : PortCall) (k : BitVec 5) : (s.note c).getExt k = s.getExt k := rfl
@[simp] theorem State.getExt_setCore (s : State) (n : RegNum) (v : Word) (k : BitVec 5) :
    (s.setCore n v).getExt k = s.getExt k := rfl
@[simp] theorem State.getCore_setExt (s : State) (n : BitVec 5) (v : DWord) (k : RegNum) :
    (s.setExt n v).getCore k = s.getCore k := rfl
@[simp] theorem State.getCore_succeed (s : State) (k : RegNum) : s.succeed.getCore k = s.getCore k := rfl
@[simp] theorem State.getExt_succeed (s : State) (k : BitVec 5) : s.succeed.getExt k = s.getExt k := rfl
@[simp] theorem State.pcValue_note (s : State) (c : PortCall) : (s.note c).pcValue = s.pcValue := rfl
@[simp] theorem State.operand_note (s : State) (c : PortCall) (n : RegNum) : (s.note c).operand n = s.operand n := rfl
@[simp] theorem State.regValue_note (s : State) (c : PortCall) (r : PortReg) : (s.note c).regValue r = s.regValue r := by
  cases r <;> rfl

/-- The two halves of a doubleword read back, and one half's write leaves the other (10_state.md rule R34). -/
theorem extHalf_extWithHalf (d : DWord) (a b : Bool) (v : Word) :
    extHalf (extWithHalf d a v) b = if a = b then v else extHalf d b := by
  cases a <;> cases b <;> apply BitVec.eq_of_getLsbD_eq <;> intro i hi <;>
    simp only [extHalf, extWithHalf, BitVec.getLsbD_extractLsb', BitVec.getLsbD_append, if_true, if_false,
      Bool.false_eq_true, Bool.true_eq_false, hi, decide_true, Bool.true_and, Nat.zero_add] <;>
    (have h1 : ¬ 32 + i < 32 := by omega
     have h2 : 32 + i - 32 = i := by omega
     simp [hi, h1, h2])

end Sys2Proof.Machine
end

