-- ==== Sys2Proof/Laws/Handlers.lean ====
section
/-! SUPPORT. What the shared operations do, once each: how handlers compose, and, where the host refuses nothing, the exact
state every read, write, PC-write policy and result write leaves. Later proofs cite these and unfold nothing. -/

namespace Sys2Proof.Machine

/-! ## Composition of handlers -/

@[simp] theorem handler_pure {α : Type} (a : α) (s : State) : (pure a : Handler α) s = .ok a s := rfl

@[simp] theorem handler_bind {α β : Type} (h : Handler α) (f : α → Handler β) (s : State) :
    (h >>= f) s = match h s with | .ok a t => f a t | .error e t => .error e t := by
  simp only [bind, EStateM.bind]
  cases h s <;> rfl

@[simp] theorem handler_map {α β : Type} (f : α → β) (h : Handler α) (s : State) :
    (f <$> h) s = match h s with | .ok a t => .ok (f a) t | .error e t => .error e t := by
  simp only [Functor.map, EStateM.map]
  cases h s <;> rfl

@[simp] theorem handler_get (s : State) : (get : Handler State) s = .ok s s := rfl

@[simp] theorem handler_modify (f : State → State) (s : State) : (modify f : Handler Unit) s = .ok () (f s) := rfl

@[simp] theorem handler_throw {α : Type} (e : Failure) (s : State) : (throw e : Handler α) s = .error e s := rfl

theorem handler_ite {α : Type} (c : Prop) [Decidable c] (h k : Handler α) (s : State) :
    (if c then h else k) s = if c then h s else k s := by
  split <;> rfl

@[simp] theorem runHandler_ok {h : Handler Unit} {s t : State} (e : h s = .ok () t) : runHandler h s = .next t.succeed := by
  simp [runHandler, e]

@[simp] theorem runHandler_error {h : Handler Unit} {s t : State} {f : Failure} (e : h s = .error f t) :
    runHandler h s = .next (State.raise f t) := by
  simp [runHandler, e]

/-- A handler always ends in a next state: no meaning faults or refuses. -/
theorem runHandler_next (h : Handler Unit) (s : State) : ∃ t, runHandler h s = .next t := by
  simp only [runHandler]
  split
  · exact ⟨_, rfl⟩
  · exact ⟨_, rfl⟩

/-! ## Tests -/

@[simp] theorem unpredictableIf_true (s : State) : unpredictableIf true s = .error .unpredictableOperands s := rfl
@[simp] theorem unpredictableIf_false (s : State) : unpredictableIf false s = .ok () s := rfl
@[simp] theorem notInSubsetIf_true (s : State) : notInSubsetIf true s = .error .unsupportedEncoding s := rfl
@[simp] theorem notInSubsetIf_false (s : State) : notInSubsetIf false s = .ok () s := rfl
@[simp] theorem carryIn_eq (s : State) : carryIn s = .ok (flagC s.inst.cpsr) s := rfl
@[simp] theorem inIT_eq (s : State) : inIT s = .ok s.inITBlock s := rfl
@[simp] theorem inITNotLast_eq (s : State) : inITNotLast s = .ok (s.inITBlock && !s.lastInITBlock) s := rfl
@[simp] theorem archVersion_eq (s : State) : archVersion s = .ok s.arch.version s := rfl
@[simp] theorem readPC_eq (s : State) : readPC s = .ok s.pcValue s := rfl
@[simp] theorem drawUnknown_eq (s : State) :
    drawUnknown s = .ok (Config.unknownBits32 s.draws) { s with draws := s.draws + 1 } := rfl
@[simp] theorem flagsOutsideIT_eq (s : State) : flagsOutsideIT s = .ok (!s.inITBlock) s := rfl

theorem unpredictableInIT_eq (s : State) :
    unpredictableInIT s = if s.inITBlock then .error .unpredictableOperands s else .ok () s := by
  simp only [unpredictableInIT, handler_bind, inIT_eq]
  cases s.inITBlock <;> simp

theorem unpredictableInITNotLast_eq (s : State) :
    unpredictableInITNotLast s =
      if s.inITBlock && !s.lastInITBlock then .error .unpredictableOperands s else .ok () s := by
  simp only [unpredictableInITNotLast, handler_bind, inITNotLast_eq]
  cases s.inITBlock && !s.lastInITBlock <;> simp

/-! ## The states after a served port call -/

/-- After `R[n]` is read: a port call is noted, but none for the PC (10_state.md rule R29). -/
def State.afterRead (s : State) (n : RegNum) : State :=
  if n = 15 then s else s.note (.readRegister (.core n) 0 ((s.getCore n).setWidth 64) true)

/-- After a core register is written. -/
def State.afterWrite (s : State) (ctx : Context) (n : RegNum) (v : Word) : State :=
  (({ s with pcWritten := s.pcWritten || PortReg.core n == PortReg.core 15 } : State).setCore n v).note
    (.writeRegister ctx (.core n) (v.setWidth 64) true)

/-- After the status register is written. -/
def State.afterStatus (s : State) (ctx : Context) (v : Word) : State :=
  ({ s with status := v } : State).note (.writeRegister ctx .status (v.setWidth 64) true)

/-- After `n` bytes of memory are written. -/
def State.afterStore (s : State) (ctx : Context) (a : Word) (n : Nat) (v : DWord) : State :=
  ({ s with mem := Memory.writeLE s.mem a v n } : State).note (.writeMemory ctx a n (lowBytes v n) true)

@[simp] theorem State.afterRead_params (s : State) (n : RegNum) : (s.afterRead n).params = s.params := by
  unfold State.afterRead; split <;> rfl
@[simp] theorem State.afterRead_arch (s : State) (n : RegNum) : (s.afterRead n).arch = s.arch := by
  unfold State.afterRead; split <;> rfl
@[simp] theorem State.afterRead_mode (s : State) (n : RegNum) : (s.afterRead n).mode = s.mode := by
  unfold State.afterRead; split <;> rfl
@[simp] theorem State.afterRead_it (s : State) (n : RegNum) : (s.afterRead n).it = s.it := by
  unfold State.afterRead; split <;> rfl
@[simp] theorem State.afterRead_inst (s : State) (n : RegNum) : (s.afterRead n).inst = s.inst := by
  unfold State.afterRead; split <;> rfl
@[simp] theorem State.afterRead_fault (s : State) (n : RegNum) : (s.afterRead n).fault = s.fault := by
  unfold State.afterRead; split <;> rfl
@[simp] theorem State.afterRead_pcWritten (s : State) (n : RegNum) : (s.afterRead n).pcWritten = s.pcWritten := by
  unfold State.afterRead; split <;> rfl
@[simp] theorem State.afterRead_cpsrOut (s : State) (n : RegNum) : (s.afterRead n).cpsrOut = s.cpsrOut := by
  unfold State.afterRead; split <;> rfl
@[simp] theorem State.afterRead_core (s : State) (n : RegNum) : (s.afterRead n).core = s.core := by
  unfold State.afterRead; split <;> rfl
@[simp] theorem State.afterRead_status (s : State) (n : RegNum) : (s.afterRead n).status = s.status := by
  unfold State.afterRead; split <;> rfl
@[simp] theorem State.afterRead_ext (s : State) (n : RegNum) : (s.afterRead n).ext = s.ext := by
  unfold State.afterRead; split <;> rfl
@[simp] theorem State.afterRead_mem (s : State) (n : RegNum) : (s.afterRead n).mem = s.mem := by
  unfold State.afterRead; split <;> rfl
@[simp] theorem State.afterRead_refusals (s : State) (n : RegNum) : (s.afterRead n).refusals = s.refusals := by
  unfold State.afterRead; split <;> rfl
@[simp] theorem State.afterRead_draws (s : State) (n : RegNum) : (s.afterRead n).draws = s.draws := by
  unfold State.afterRead; split <;> rfl
@[simp] theorem State.afterRead_script (s : State) (n : RegNum) : (s.afterRead n).script = s.script := by
  unfold State.afterRead; split <;> rfl
@[simp] theorem State.afterRead_stopped (s : State) (n : RegNum) : (s.afterRead n).stopped = s.stopped := by
  unfold State.afterRead; split <;> rfl
@[simp] theorem State.afterWrite_params (s : State) (ctx : Context) (n : RegNum) (v : Word) :
    (s.afterWrite ctx n v).params = s.params := rfl
@[simp] theorem State.afterWrite_arch (s : State) (ctx : Context) (n : RegNum) (v : Word) :
    (s.afterWrite ctx n v).arch = s.arch := rfl
@[simp] theorem State.afterWrite_mode (s : State) (ctx : Context) (n : RegNum) (v : Word) :
    (s.afterWrite ctx n v).mode = s.mode := rfl
@[simp] theorem State.afterWrite_it (s : State) (ctx : Context) (n : RegNum) (v : Word) :
    (s.afterWrite ctx n v).it = s.it := rfl
@[simp] theorem State.afterWrite_inst (s : State) (ctx : Context) (n : RegNum) (v : Word) :
    (s.afterWrite ctx n v).inst = s.inst := rfl
@[simp] theorem State.afterWrite_fault (s : State) (ctx : Context) (n : RegNum) (v : Word) :
    (s.afterWrite ctx n v).fault = s.fault := rfl
@[simp] theorem State.afterWrite_pcWritten (s : State) (ctx : Context) (n : RegNum) (v : Word) :
    (s.afterWrite ctx n v).pcWritten = (s.pcWritten || PortReg.core n == PortReg.core 15) := rfl
@[simp] theorem State.afterWrite_cpsrOut (s : State) (ctx : Context) (n : RegNum) (v : Word) :
    (s.afterWrite ctx n v).cpsrOut = s.cpsrOut := rfl
@[simp] theorem State.afterWrite_core (s : State) (ctx : Context) (n : RegNum) (v : Word) :
    (s.afterWrite ctx n v).core = s.core.set n.toNat v n.isLt := rfl
@[simp] theorem State.afterWrite_status (s : State) (ctx : Context) (n : RegNum) (v : Word) :
    (s.afterWrite ctx n v).status = s.status := rfl
@[simp] theorem State.afterWrite_ext (s : State) (ctx : Context) (n : RegNum) (v : Word) :
    (s.afterWrite ctx n v).ext = s.ext := rfl
@[simp] theorem State.afterWrite_mem (s : State) (ctx : Context) (n : RegNum) (v : Word) :
    (s.afterWrite ctx n v).mem = s.mem := rfl
@[simp] theorem State.afterWrite_refusals (s : State) (ctx : Context) (n : RegNum) (v : Word) :
    (s.afterWrite ctx n v).refusals = s.refusals := rfl
@[simp] theorem State.afterWrite_draws (s : State) (ctx : Context) (n : RegNum) (v : Word) :
    (s.afterWrite ctx n v).draws = s.draws := rfl
@[simp] theorem State.afterWrite_script (s : State) (ctx : Context) (n : RegNum) (v : Word) :
    (s.afterWrite ctx n v).script = s.script := rfl
@[simp] theorem State.afterWrite_stopped (s : State) (ctx : Context) (n : RegNum) (v : Word) :
    (s.afterWrite ctx n v).stopped = s.stopped := rfl
@[simp] theorem State.afterStatus_params (s : State) (ctx : Context) (v : Word) :
    (s.afterStatus ctx v).params = s.params := rfl
@[simp] theorem State.afterStatus_arch (s : State) (ctx : Context) (v : Word) :
    (s.afterStatus ctx v).arch = s.arch := rfl
@[simp] theorem State.afterStatus_mode (s : State) (ctx : Context) (v : Word) :
    (s.afterStatus ctx v).mode = s.mode := rfl
@[simp] theorem State.afterStatus_it (s : State) (ctx : Context) (v : Word) :
    (s.afterStatus ctx v).it = s.it := rfl
@[simp] theorem State.afterStatus_inst (s : State) (ctx : Context) (v : Word) :
    (s.afterStatus ctx v).inst = s.inst := rfl
@[simp] theorem State.afterStatus_fault (s : State) (ctx : Context) (v : Word) :
    (s.afterStatus ctx v).fault = s.fault := rfl
@[simp] theorem State.afterStatus_pcWritten (s : State) (ctx : Context) (v : Word) :
    (s.afterStatus ctx v).pcWritten = s.pcWritten := rfl
@[simp] theorem State.afterStatus_cpsrOut (s : State) (ctx : Context) (v : Word) :
    (s.afterStatus ctx v).cpsrOut = s.cpsrOut := rfl
@[simp] theorem State.afterStatus_core (s : State) (ctx : Context) (v : Word) :
    (s.afterStatus ctx v).core = s.core := rfl
@[simp] theorem State.afterStatus_status (s : State) (ctx : Context) (v : Word) :
    (s.afterStatus ctx v).status = v := rfl
@[simp] theorem State.afterStatus_ext (s : State) (ctx : Context) (v : Word) :
    (s.afterStatus ctx v).ext = s.ext := rfl
@[simp] theorem State.afterStatus_mem (s : State) (ctx : Context) (v : Word) :
    (s.afterStatus ctx v).mem = s.mem := rfl
@[simp] theorem State.afterStatus_refusals (s : State) (ctx : Context) (v : Word) :
    (s.afterStatus ctx v).refusals = s.refusals := rfl
@[simp] theorem State.afterStatus_draws (s : State) (ctx : Context) (v : Word) :
    (s.afterStatus ctx v).draws = s.draws := rfl
@[simp] theorem State.afterStatus_script (s : State) (ctx : Context) (v : Word) :
    (s.afterStatus ctx v).script = s.script := rfl
@[simp] theorem State.afterStatus_stopped (s : State) (ctx : Context) (v : Word) :
    (s.afterStatus ctx v).stopped = s.stopped := rfl
@[simp] theorem State.afterStore_params (s : State) (ctx : Context) (a : Word) (n : Nat) (v : DWord) :
    (s.afterStore ctx a n v).params = s.params := rfl
@[simp] theorem State.afterStore_arch (s : State) (ctx : Context) (a : Word) (n : Nat) (v : DWord) :
    (s.afterStore ctx a n v).arch = s.arch := rfl
@[simp] theorem State.afterStore_mode (s : State) (ctx : Context) (a : Word) (n : Nat) (v : DWord) :
    (s.afterStore ctx a n v).mode = s.mode := rfl
@[simp] theorem State.afterStore_it (s : State) (ctx : Context) (a : Word) (n : Nat) (v : DWord) :
    (s.afterStore ctx a n v).it = s.it := rfl
@[simp] theorem State.afterStore_inst (s : State) (ctx : Context) (a : Word) (n : Nat) (v : DWord) :
    (s.afterStore ctx a n v).inst = s.inst := rfl
@[simp] theorem State.afterStore_fault (s : State) (ctx : Context) (a : Word) (n : Nat) (v : DWord) :
    (s.afterStore ctx a n v).fault = s.fault := rfl
@[simp] theorem State.afterStore_pcWritten (s : State) (ctx : Context) (a : Word) (n : Nat) (v : DWord) :
    (s.afterStore ctx a n v).pcWritten = s.pcWritten := rfl
@[simp] theorem State.afterStore_cpsrOut (s : State) (ctx : Context) (a : Word) (n : Nat) (v : DWord) :
    (s.afterStore ctx a n v).cpsrOut = s.cpsrOut := rfl
@[simp] theorem State.afterStore_core (s : State) (ctx : Context) (a : Word) (n : Nat) (v : DWord) :
    (s.afterStore ctx a n v).core = s.core := rfl
@[simp] theorem State.afterStore_status (s : State) (ctx : Context) (a : Word) (n : Nat) (v : DWord) :
    (s.afterStore ctx a n v).status = s.status := rfl
@[simp] theorem State.afterStore_ext (s : State) (ctx : Context) (a : Word) (n : Nat) (v : DWord) :
    (s.afterStore ctx a n v).ext = s.ext := rfl
@[simp] theorem State.afterStore_mem (s : State) (ctx : Context) (a : Word) (n : Nat) (v : DWord) :
    (s.afterStore ctx a n v).mem = Memory.writeLE s.mem a v n := rfl
@[simp] theorem State.afterStore_refusals (s : State) (ctx : Context) (a : Word) (n : Nat) (v : DWord) :
    (s.afterStore ctx a n v).refusals = s.refusals := rfl
@[simp] theorem State.afterStore_draws (s : State) (ctx : Context) (a : Word) (n : Nat) (v : DWord) :
    (s.afterStore ctx a n v).draws = s.draws := rfl
@[simp] theorem State.afterStore_script (s : State) (ctx : Context) (a : Word) (n : Nat) (v : DWord) :
    (s.afterStore ctx a n v).script = s.script := rfl
@[simp] theorem State.afterStore_stopped (s : State) (ctx : Context) (a : Word) (n : Nat) (v : DWord) :
    (s.afterStore ctx a n v).stopped = s.stopped := rfl

@[simp] theorem State.getCore_afterRead (s : State) (n k : RegNum) : (s.afterRead n).getCore k = s.getCore k := by
  unfold State.afterRead; split <;> rfl
@[simp] theorem State.getExt_afterRead (s : State) (n : RegNum) (k : BitVec 5) : (s.afterRead n).getExt k = s.getExt k := by
  unfold State.afterRead; split <;> rfl
@[simp] theorem State.pcValue_afterRead (s : State) (n : RegNum) : (s.afterRead n).pcValue = s.pcValue := by
  unfold State.afterRead; split <;> rfl
@[simp] theorem State.operand_afterRead (s : State) (n k : RegNum) : (s.afterRead n).operand k = s.operand k := by
  unfold State.afterRead; split <;> rfl
theorem State.getCore_afterWrite (s : State) (ctx : Context) (n k : RegNum) (v : Word) :
    (s.afterWrite ctx n v).getCore k = if k = n then v else s.getCore k := State.getCore_setCore _ n k v
@[simp] theorem State.getCore_afterWrite_same (s : State) (ctx : Context) (n : RegNum) (v : Word) :
    (s.afterWrite ctx n v).getCore n = v := by simp [State.getCore_afterWrite]
@[simp] theorem State.getExt_afterWrite (s : State) (ctx : Context) (n : RegNum) (v : Word) (k : BitVec 5) :
    (s.afterWrite ctx n v).getExt k = s.getExt k := rfl
@[simp] theorem State.pcValue_afterWrite (s : State) (ctx : Context) (n : RegNum) (v : Word) :
    (s.afterWrite ctx n v).pcValue = s.pcValue := rfl
@[simp] theorem State.getCore_afterStatus (s : State) (ctx : Context) (v : Word) (k : RegNum) :
    (s.afterStatus ctx v).getCore k = s.getCore k := rfl
@[simp] theorem State.getExt_afterStatus (s : State) (ctx : Context) (v : Word) (k : BitVec 5) :
    (s.afterStatus ctx v).getExt k = s.getExt k := rfl
@[simp] theorem State.getCore_afterStore (s : State) (ctx : Context) (a : Word) (n : Nat) (v : DWord) (k : RegNum) :
    (s.afterStore ctx a n v).getCore k = s.getCore k := rfl
@[simp] theorem State.getExt_afterStore (s : State) (ctx : Context) (a : Word) (n : Nat) (v : DWord) (k : BitVec 5) :
    (s.afterStore ctx a n v).getExt k = s.getExt k := rfl

@[simp] theorem State.served_note (s : State) (c : PortCall) : (s.note c).served ↔ s.served := Iff.rfl
@[simp] theorem State.served_afterRead (s : State) (n : RegNum) : (s.afterRead n).served ↔ s.served := by
  simp [State.served]
@[simp] theorem State.served_afterWrite (s : State) (ctx : Context) (n : RegNum) (v : Word) :
    (s.afterWrite ctx n v).served ↔ s.served := Iff.rfl
@[simp] theorem State.served_afterStatus (s : State) (ctx : Context) (v : Word) :
    (s.afterStatus ctx v).served ↔ s.served := Iff.rfl
@[simp] theorem State.served_afterStore (s : State) (ctx : Context) (a : Word) (n : Nat) (v : DWord) :
    (s.afterStore ctx a n v).served ↔ s.served := Iff.rfl

/-! ## Served port calls -/

theorem State.refuses_served {s : State} (h : s.served) (t : PortTarget) : s.refuses t = false := by
  simp [State.refuses, State.served] at *
  simp [h]

theorem State.writable_served {s : State} (h : s.served) (a : Word) (n : Nat) : s.writable a n = true := by
  simp [State.writable, State.refuses_served h]

theorem State.readable_served {s : State} (h : s.served) (a : Word) (n : Nat) :
    s.readable a n = (Memory.readLE s.mem a n).isSome := by
  simp [State.readable, State.refuses_served h]

/-- `R[n]` (00_scope.md rule R8). -/
theorem readReg_served {s : State} (h : s.served) (n : RegNum) : readReg n s = .ok (s.operand n) (s.afterRead n) := by
  unfold readReg State.operand State.afterRead
  split
  · rfl
  · simp [callRead, portReadRegister, State.refuses_served h, State.regValue, handler_bind]

/-- `R[n] <- v` (R8). -/
theorem writeReg_served {s : State} (h : s.served) (ctx : Context) (n : RegNum) (v : Word) :
    writeReg ctx n v s = .ok () (s.afterWrite ctx n v) := by
  simp [writeReg, callWrite, portWriteRegister, State.refuses_served h, State.setReg, State.afterWrite]

/-- A status write. -/
theorem writeStatus_served {s : State} (h : s.served) (ctx : Context) (v : Word) :
    writeStatus ctx v s = .ok () (s.afterStatus ctx v) := by
  have e : (PortReg.status == PortReg.core 15#4) = false := rfl
  simp [writeStatus, callWrite, portWriteRegister, State.refuses_served h, State.setReg, State.afterStatus, e]

/-- `MemWrite` (20_memory.md rule R62). -/
theorem memWrite_served {s : State} (h : s.served) (ctx : Context) (a : Word) (n : Nat) (v : DWord) :
    memWrite ctx a n v s = .ok () (s.afterStore ctx a n v) := by
  simp [memWrite, callWrite, portWriteMemory, State.writable_served h, State.afterStore]

/-- `MemRead` (R62) of mapped bytes. -/
theorem memRead_served {s : State} (h : s.served) (ctx : Context) {a : Word} {n : Nat} {v : DWord}
    (hv : Memory.readLE s.mem a n = some v) :
    memRead ctx a n s = .ok v (s.note (.readMemory ctx a n v true)) := by
  simp [memRead, callRead, portReadMemory, State.readable_served h, hv]

/-- `MemRead` (R62, R394) where a byte is not mapped. -/
theorem memRead_unmapped {s : State} (h : s.served) (ctx : Context) {a : Word} {n : Nat}
    (hv : Memory.readLE s.mem a n = none) :
    memRead ctx a n s = .error .accessFailure (s.note (.readMemory ctx a n 0 false)) := by
  simp [memRead, callRead, portReadMemory, State.readable_served h, hv]

/-! ## PC-write policies -/

/-- After `SelectInstrSet` (46_branch.md rule R304). -/
def State.afterSelect (s : State) (set : InstrSet) : State :=
  if s.mode = modeOf set then s
  else
    { ({ s with cpsrOut := setBit s.cpsrOut 5 (set == .thumb) } : State).afterStatus (.modeChange set)
        (setBit s.cpsrOut 5 (set == .thumb)) with mode := modeOf set }

/-- After `BXWritePC` (R301). -/
def State.afterExchange (s : State) (ctx : Context) (a : Word) : State :=
  if a.getLsbD 0 then (s.afterSelect .thumb).afterWrite ctx 15 (a &&& 0xfffffffe)
  else (s.afterSelect .arm).afterWrite ctx 15 (a &&& 0xfffffffc)

theorem branchWritePC_served {s : State} (h : s.served) (ctx : Context) (a : Word) :
    branchWritePC ctx a s = .ok () (s.afterWrite ctx 15 (maskPC s.mode a)) := by
  simp [branchWritePC, writeReg_served h]

theorem selectInstrSet_served {s : State} (h : s.served) (set : InstrSet) :
    selectInstrSet set s = .ok () (s.afterSelect set) := by
  simp only [selectInstrSet, handler_bind, handler_get, handler_ite, State.afterSelect]
  split
  · rfl
  · simp only [handler_modify]
    rw [writeStatus_served (by exact h)]

theorem State.served_afterSelect {s : State} (set : InstrSet) : (s.afterSelect set).served ↔ s.served := by
  unfold State.afterSelect
  split
  · rfl
  · exact Iff.rfl

theorem bxWritePC_served {s : State} (h : s.served) (ctx : Context) (a : Word) :
    bxWritePC ctx a s = .ok () (s.afterExchange ctx a) := by
  unfold bxWritePC State.afterExchange
  split
  · simp only [handler_bind, selectInstrSet_served h]
    exact writeReg_served ((State.served_afterSelect _).2 h) _ _ _
  · simp only [handler_bind, selectInstrSet_served h]
    exact writeReg_served ((State.served_afterSelect _).2 h) _ _ _

/-- What a PC write leaves alone. -/
structure PcWriteFrame (s t : State) : Prop where
  block : SameBlock s t
  core : SameCoreBut [15] s t
  ext : SameExt s t
  mem : t.mem = s.mem
  draws : t.draws = s.draws
  written : t.pcWritten = true

theorem afterSelect_spec (s : State) (set : InstrSet) :
    SetSelected s (s.afterSelect set) set ∧ SameBlock s (s.afterSelect set) ∧
      (∀ k, (s.afterSelect set).getCore k = s.getCore k) ∧ SameExt s (s.afterSelect set) ∧
      (s.afterSelect set).mem = s.mem ∧ (s.afterSelect set).draws = s.draws := by
  unfold State.afterSelect
  split
  · rename_i hm
    exact ⟨⟨hm, by simp [hm]⟩, ⟨rfl, rfl, rfl, rfl, rfl, rfl, rfl⟩, fun _ => rfl, fun _ => rfl, rfl, rfl⟩
  · rename_i hm
    exact ⟨⟨rfl, by simp [hm]⟩, ⟨rfl, rfl, rfl, rfl, rfl, rfl, rfl⟩, fun _ => rfl, fun _ => rfl, rfl, rfl⟩

theorem afterExchange_spec (s : State) (ctx : Context) (a : Word) :
    PcExchange s (s.afterExchange ctx a) a ∧ PcWriteFrame s (s.afterExchange ctx a) := by
  unfold State.afterExchange PcExchange
  split
  · obtain ⟨hs, hb, hc, he, hm, hd⟩ := afterSelect_spec s .thumb
    refine ⟨⟨by simp, hs⟩, ⟨⟨hb.1, hb.2, hb.3, hb.4, hb.5, hb.6, hb.7⟩, fun k hk => ?_, he, hm, hd, by simp⟩⟩
    have : k ≠ 15 := by simpa using hk
    rw [State.getCore_afterWrite, if_neg this, hc]
  · obtain ⟨hs, hb, hc, he, hm, hd⟩ := afterSelect_spec s .arm
    refine ⟨⟨by simp, hs⟩, ⟨⟨hb.1, hb.2, hb.3, hb.4, hb.5, hb.6, hb.7⟩, fun k hk => ?_, he, hm, hd, by simp⟩⟩
    have : k ≠ 15 := by simpa using hk
    rw [State.getCore_afterWrite, if_neg this, hc]

theorem afterBranch_spec (s : State) (ctx : Context) (a : Word) :
    PcBranch s (s.afterWrite ctx 15 (maskPC s.mode a)) a ∧ PcWriteFrame s (s.afterWrite ctx 15 (maskPC s.mode a)) := by
  refine ⟨⟨by simp [maskPC], rfl, rfl⟩, ⟨⟨rfl, rfl, rfl, rfl, rfl, rfl, rfl⟩, fun k hk => ?_, fun _ => rfl, rfl, rfl, by simp⟩⟩
  have : k ≠ 15 := by simpa using hk
  rw [State.getCore_afterWrite, if_neg this]

/-- Everything `BranchWritePC` does where the host refuses nothing (R300). -/
theorem branchWritePC_spec {s : State} (h : s.served) (ctx : Context) (a : Word) :
    ∃ t, branchWritePC ctx a s = .ok () t ∧ PcBranch s t a ∧ PcWriteFrame s t :=
  ⟨_, branchWritePC_served h ctx a, afterBranch_spec s ctx a⟩

/-- Everything `BXWritePC` does where the host refuses nothing (R301). -/
theorem bxWritePC_spec {s : State} (h : s.served) (ctx : Context) (a : Word) :
    ∃ t, bxWritePC ctx a s = .ok () t ∧ PcExchange s t a ∧ PcWriteFrame s t :=
  ⟨_, bxWritePC_served h ctx a, afterExchange_spec s ctx a⟩

/-- Everything `LoadWritePC` does where the host refuses nothing (R302). -/
theorem loadWritePC_spec {s : State} (h : s.served) (ctx : Context) (a : Word) :
    ∃ t, loadWritePC ctx a s = .ok () t ∧ PcLoad s t a ∧ PcWriteFrame s t := by
  simp only [loadWritePC, handler_bind, archVersion_eq, handler_ite, PcLoad]
  split
  · exact bxWritePC_spec h ctx a
  · exact branchWritePC_spec h ctx a

/-- Everything `ALUWritePC` does where the host refuses nothing (R303). -/
theorem aluWritePC_spec {s : State} (h : s.served) (ctx : Context) (a : Word) :
    ∃ t, aluWritePC ctx a s = .ok () t ∧ PcAlu s t a ∧ PcWriteFrame s t := by
  simp only [aluWritePC, handler_bind, handler_get, handler_ite, PcAlu]
  split
  · exact bxWritePC_spec h ctx a
  · exact branchWritePC_spec h ctx a

/-! ## Flag and result writes -/

theorem getLsbD_setBit (w : Word) (pos k : Nat) (b : Bool) (hp : pos < 32) (hk : k < 32) :
    (setBit w pos b).getLsbD k = if k = pos then b else w.getLsbD k := by
  have key : ∀ p < 32, ∀ j < 32, (1#32 <<< p).getLsbD j = decide (j = p) := by decide
  cases b
  · simp only [setBit, Bool.false_eq_true, if_false, BitVec.getLsbD_and, BitVec.getLsbD_not, key pos hp k hk, hk, decide_true,
      Bool.true_and]
    by_cases h : k = pos <;> simp [h]
  · simp only [setBit, if_true, BitVec.getLsbD_or, key pos hp k hk]
    by_cases h : k = pos <;> simp [h]

theorem getLsbD_setBitOpt (w : Word) (pos k : Nat) (b : Option Bool) (hp : pos < 32) (hk : k < 32) :
    (setBitOpt w pos b).getLsbD k = if k = pos then b.getD (w.getLsbD k) else w.getLsbD k := by
  cases b with
  | none => simp [setBitOpt]
  | some b => simp [setBitOpt, getLsbD_setBit _ _ _ _ hp hk]

/-- The bits of the staged status value after `WriteFlags` (40_primitives.md rule R161). -/
theorem packFlags_bits (w r : Word) (c v : Option Bool) :
    flagN (packFlags w r c v) = r.msb ∧ flagZ (packFlags w r c v) = (r == 0) ∧
      flagC (packFlags w r c v) = c.getD (flagC w) ∧ flagV (packFlags w r c v) = v.getD (flagV w) ∧
      ∀ k < 28, (packFlags w r c v).getLsbD k = w.getLsbD k := by
  refine ⟨?_, ?_, ?_, ?_, fun k hk => ?_⟩
  · simp (disch := omega) only [flagN, packFlags, getLsbD_setBitOpt, getLsbD_setBit]
    simp
  · simp (disch := omega) only [flagZ, packFlags, getLsbD_setBitOpt, getLsbD_setBit]
    simp
  · simp (disch := omega) only [flagC, packFlags, getLsbD_setBitOpt, getLsbD_setBit]
    simp
  · simp (disch := omega) only [flagV, packFlags, getLsbD_setBitOpt, getLsbD_setBit]
    simp
  · have h1 : k ≠ 31 := by omega
    have h2 : k ≠ 30 := by omega
    have h3 : k ≠ 29 := by omega
    have h4 : k ≠ 28 := by omega
    have h5 : k < 32 := by omega
    simp (disch := omega) only [packFlags, getLsbD_setBitOpt, getLsbD_setBit, h1, h2, h3, h4, if_false]

/-- After `WriteFlags` (R161). -/
def State.afterFlags (s : State) (r : Word) (c v : Option Bool) : State :=
  ({ s with cpsrOut := packFlags s.cpsrOut r c v } : State).afterStatus .immediate (packFlags s.cpsrOut r c v)

theorem writeFlags_served {s : State} (h : s.served) (r : Word) (c v : Option Bool) :
    writeFlags r c v s = .ok () (s.afterFlags r c v) := by
  simp only [writeFlags, handler_bind, handler_get, handler_modify, State.afterFlags]
  exact writeStatus_served (by exact h) _ _

theorem afterFlags_spec (s : State) (r : AluResult) : FlagsWritten s (s.afterFlags r.result r.carry r.overflow) r := by
  obtain ⟨h1, h2, h3, h4, h5⟩ := packFlags_bits s.cpsrOut r.result r.carry r.overflow
  exact ⟨h1, h2, h3, h4, h5, rfl⟩

/-- The change that a result write makes, whatever the destination (R162). -/
def ResultWritten (s t : State) (d : RegNum) (setflags : Bool) (r : AluResult) : Prop :=
  (if d = 15 then PcAlu s t r.result
    else t.getCore d = r.result ∧ if setflags then FlagsWritten s t r else SameStatus s t) ∧
  SameCoreBut [d] s t ∧ t.mem = s.mem ∧ SameExt s t ∧ SameBlock s t

/-- Everything `WriteCoreRegOptionalFlags` does where the host refuses nothing (R162). -/
theorem writeCoreRegOptionalFlags_spec {s : State} (h : s.served) (ctx : Context) (d : RegNum) (setflags : Bool)
    (r : AluResult) :
    ∃ t, writeCoreRegOptionalFlags ctx r.result d setflags r.carry r.overflow s = .ok () t ∧ ResultWritten s t d setflags r := by
  unfold writeCoreRegOptionalFlags ResultWritten
  split
  · rename_i hd
    subst hd
    obtain ⟨t, ht, hp, hf⟩ := aluWritePC_spec h ctx r.result
    exact ⟨t, ht, by simpa using hp, hf.core, hf.mem, hf.ext, hf.block⟩
  · rename_i hd
    simp only [handler_bind, writeReg_served h]
    cases setflags with
    | false =>
      refine ⟨_, rfl, ⟨by simp, rfl, rfl⟩, fun k hk => ?_, rfl, fun _ => rfl, ⟨rfl, rfl, rfl, rfl, rfl, rfl, rfl⟩⟩
      have : k ≠ d := by simpa using hk
      rw [State.getCore_afterWrite, if_neg this]
    | true =>
      simp only [if_true]
      refine ⟨_, writeFlags_served (by simpa using h) _ _ _, ⟨State.getCore_afterWrite_same s ctx d r.result, ?_⟩, fun k hk => ?_, rfl, fun _ => rfl,
        ⟨rfl, rfl, rfl, rfl, rfl, rfl, rfl⟩⟩
      · exact afterFlags_spec (s.afterWrite ctx d r.result) r
      · have : k ≠ d := by simpa using hk
        show (s.afterWrite ctx d r.result).getCore k = _
        rw [State.getCore_afterWrite, if_neg this]

end Sys2Proof.Machine
end

