-- ==== Sys2Proof/Laws/Closure.lean ====
section
/-! SUPPORT. What any instruction can do, said once. `Does R E h` says what a handler does when it ends normally (`R`) and when
it raises a failure (`E`). If `R` and `E` are closed under the few primitive effects of the machine (`Closed`), every handler
of the model does them (`exec_does`); a proof about every instruction picks an `R` and an `E` and checks the primitives.
`Precise` says that a failure other than a refused port call leaves the state untouched. -/

namespace Sys2Proof.Machine

/-- Where `h` ends normally the two states are related by `R`, where it raises `f` by `E f`. -/
def Does {α : Type} (R : State → State → Prop) (E : Failure → State → State → Prop) (h : Handler α) : Prop :=
  ∀ s, (∀ a t, h s = .ok a t → R s t) ∧ (∀ f t, h s = .error f t → E f s t)

/-- The primitive effects of the machine do `R` and `E`. -/
structure Closed (R : State → State → Prop) (E : Failure → State → State → Prop) : Prop where
  refl : ∀ s, R s s
  trans : ∀ {s t u}, R s t → R t u → R s u
  tail : ∀ {f s t u}, R s t → E f t u → E f s u
  readRegister : ∀ r, Does R E (callRead (portReadRegister r))
  writeCore : ∀ ctx n v, Does R E (callWrite (portWriteRegister ctx (.core n) v))
  writeExt : ∀ ctx (l : ExtList) n v, Does R E (callWrite (portWriteRegister ctx (l.reg n) v))
  readMemory : ∀ ctx a n, Does R E (callRead (portReadMemory ctx a n))
  writeMemory : ∀ ctx a n v, Does R E (callWrite (portWriteMemory ctx a n v))
  draw : Does R E drawUnknown
  flags : ∀ r c v, Does R E (writeFlags r c v)
  select : ∀ set, Does R E (selectInstrSet set)

/-- The tests of the instruction rules do `E`: they raise `UnsupportedEncoding` or `UnpredictableOperands` where the state
stands. -/
def Throws (E : Failure → State → State → Prop) : Prop := ∀ f s, f = .unsupportedEncoding ∨ f = .unpredictableOperands → E f s s

variable {R : State → State → Prop} {E : Failure → State → State → Prop}

/-- A handler that ends normally where the state stands. -/
theorem Closed.still (c : Closed R E) {α : Type} {h : Handler α} (e : ∀ s, ∃ a, h s = .ok a s) : Does R E h := fun s => by
  obtain ⟨a, e⟩ := e s
  refine ⟨fun b t hb => ?_, fun f t hb => ?_⟩
  · rw [e] at hb
    cases hb
    exact c.refl s
  · rw [e] at hb
    cases hb

theorem Closed.pure (c : Closed R E) {α : Type} (a : α) : Does R E (Pure.pure a : Handler α) := c.still fun _ => ⟨a, rfl⟩

theorem Closed.bind (c : Closed R E) {α β : Type} {h : Handler α} {k : α → Handler β} (hh : Does R E h)
    (hk : ∀ a, Does R E (k a)) : Does R E (h >>= k) := fun s => by
  have hs := hh s
  simp only [handler_bind]
  cases e : h s with
  | ok a t =>
    have r := hs.1 a t e
    exact ⟨fun b u hb => c.trans r ((hk a t).1 b u hb), fun f u hb => c.tail r ((hk a t).2 f u hb)⟩
  | error f t =>
    refine ⟨fun b u hb => by simp at hb, fun g u hb => ?_⟩
    simp only [EStateM.Result.error.injEq] at hb
    obtain ⟨rfl, rfl⟩ := hb
    exact hs.2 _ _ e

theorem Closed.ite (_ : Closed R E) {α : Type} (p : Prop) [Decidable p] {h k : Handler α} (hh : Does R E h) (hk : Does R E k) :
    Does R E (if p then h else k) := by
  split
  · exact hh
  · exact hk

theorem Closed.get (c : Closed R E) : Does R E (MonadState.get : Handler State) := c.still fun s => ⟨s, rfl⟩
theorem Closed.carryIn (c : Closed R E) : Does R E carryIn := c.still fun _ => ⟨_, rfl⟩
theorem Closed.readPC (c : Closed R E) : Does R E readPC := c.still fun _ => ⟨_, rfl⟩
theorem Closed.inIT (c : Closed R E) : Does R E inIT := c.still fun _ => ⟨_, rfl⟩
theorem Closed.inITNotLast (c : Closed R E) : Does R E inITNotLast := c.still fun _ => ⟨_, rfl⟩
theorem Closed.archVersion (c : Closed R E) : Does R E archVersion := c.still fun _ => ⟨_, rfl⟩
theorem Closed.flagsOutsideIT (c : Closed R E) : Does R E flagsOutsideIT := c.still fun _ => ⟨_, rfl⟩
theorem Closed.armImm (c : Closed R E) (imm12 : BitVec 12) : Does R E (armImm imm12) := c.still fun _ => ⟨_, rfl⟩
theorem Closed.plainImm (c : Closed R E) (v : Word) : Does R E (plainImm v) := c.still fun _ => ⟨_, rfl⟩

theorem Closed.thrown (_ : Closed R E) (t : Throws E) {α : Type} {f : Failure}
    (hf : f = .unsupportedEncoding ∨ f = .unpredictableOperands) :
    Does R E (throw f : Handler α) := fun s => by
  refine ⟨fun a u h => by simp at h, fun g u h => ?_⟩
  simp only [handler_throw, EStateM.Result.error.injEq] at h
  obtain ⟨rfl, rfl⟩ := h
  exact t _ _ hf

theorem Closed.thumbImm (c : Closed R E) (t : Throws E) (i1 : BitVec 1) (imm3 : BitVec 3) (imm8 : BitVec 8) :
    Does R E (thumbImm i1 imm3 imm8) :=
  c.bind c.carryIn fun _ => by
    split
    · exact c.pure _
    · exact c.thrown t (by simp)

theorem Closed.unpredictableIf (c : Closed R E) (t : Throws E) (b : Bool) : Does R E (unpredictableIf b) := by
  cases b
  · exact c.pure _
  · exact c.thrown t (by simp)

theorem Closed.notInSubsetIf (c : Closed R E) (t : Throws E) (b : Bool) : Does R E (notInSubsetIf b) := by
  cases b
  · exact c.pure _
  · exact c.thrown t (by simp)

theorem Closed.unpredictableInIT (c : Closed R E) (t : Throws E) : Does R E unpredictableInIT :=
  c.bind c.inIT fun _ => c.unpredictableIf t _

theorem Closed.unpredictableInITNotLast (c : Closed R E) (t : Throws E) : Does R E unpredictableInITNotLast :=
  c.bind c.inITNotLast fun _ => c.unpredictableIf t _

theorem Closed.readReg (c : Closed R E) (n : RegNum) : Does R E (readReg n) :=
  c.ite _ c.readPC (c.bind (c.readRegister _) fun _ => c.pure _)

theorem Closed.writeReg (c : Closed R E) (ctx : Context) (n : RegNum) (v : Word) : Does R E (writeReg ctx n v) :=
  c.writeCore _ _ _

theorem Closed.branchWritePC (c : Closed R E) (ctx : Context) (a : Word) : Does R E (branchWritePC ctx a) :=
  c.bind c.get fun _ => c.writeReg _ _ _

theorem Closed.bxWritePC (c : Closed R E) (ctx : Context) (a : Word) : Does R E (bxWritePC ctx a) :=
  c.ite _ (c.bind (c.select _) fun _ => c.writeReg _ _ _) (c.bind (c.select _) fun _ => c.writeReg _ _ _)

theorem Closed.loadWritePC (c : Closed R E) (ctx : Context) (a : Word) : Does R E (loadWritePC ctx a) :=
  c.bind c.archVersion fun _ => c.ite _ (c.bxWritePC _ _) (c.branchWritePC _ _)

theorem Closed.aluWritePC (c : Closed R E) (ctx : Context) (a : Word) : Does R E (aluWritePC ctx a) :=
  c.bind c.get fun _ => c.ite _ (c.bxWritePC _ _) (c.branchWritePC _ _)

theorem Closed.writeCoreRegOptionalFlags (c : Closed R E) (ctx : Context) (r : Word) (d : RegNum) (f : Bool)
    (carry overflow : Option Bool) : Does R E (writeCoreRegOptionalFlags ctx r d f carry overflow) :=
  c.ite _ (c.aluWritePC _ _) (c.bind (c.writeReg _ _ _) fun _ => c.ite _ (c.flags _ _ _) (c.pure _))

theorem Closed.operand2 (c : Closed R E) (o : Operand2) : Does R E o.value := by
  cases o with
  | imm v x => exact c.pure _
  | reg m ty a => exact c.bind (c.readReg m) fun _ => c.bind c.carryIn fun _ => c.pure _

theorem Closed.firstOperand (c : Closed R E) (n : Option RegNum) : Does R E (firstOperand n) := by
  cases n with
  | none => exact c.pure _
  | some n => exact c.readReg n

theorem Closed.dataProc (c : Closed R E) (op : AluOp) (d : RegNum) (n : Option RegNum) (o : Operand2) (f : Bool) :
    Does R E (dataProc op d n o f) :=
  c.bind (c.operand2 o) fun _ => c.bind (c.firstOperand n) fun _ => c.bind c.carryIn fun _ =>
    c.writeCoreRegOptionalFlags _ _ _ _ _ _

theorem Closed.compare (c : Closed R E) (op : AluOp) (n : RegNum) (o : Operand2) : Does R E (compare op n o) :=
  c.bind (c.operand2 o) fun _ => c.bind (c.readReg n) fun _ => c.bind c.carryIn fun _ => c.flags _ _ _

theorem Closed.shiftImm (c : Closed R E) (d m : RegNum) (ty : SRType) (a : Nat) (f : Bool) : Does R E (shiftImm d m ty a f) :=
  c.bind (c.readReg m) fun _ => c.bind c.carryIn fun _ => c.writeCoreRegOptionalFlags _ _ _ _ _ _

theorem Closed.shiftReg (c : Closed R E) (d n m : RegNum) (ty : SRType) (f : Bool) : Does R E (shiftReg d n m ty f) :=
  c.bind (c.readReg m) fun _ => c.bind (c.readReg n) fun _ => c.bind c.carryIn fun _ =>
    c.writeCoreRegOptionalFlags _ _ _ _ _ _

theorem Closed.branchTo (c : Closed R E) (offset : Word) : Does R E (branchTo offset) :=
  c.bind c.readPC fun _ => c.branchWritePC _ _

theorem Closed.branchLink (c : Closed R E) (offset : Word) : Does R E (branchLink offset) :=
  c.bind c.get fun _ => c.bind (c.writeReg _ _ _) fun _ => c.branchWritePC _ _

theorem Closed.branchLinkExchange (c : Closed R E) (offset : Word) : Does R E (branchLinkExchange offset) :=
  c.bind c.get fun s => c.bind (c.writeReg _ _ _) fun _ => by
    cases s.inst.mode
    · exact c.bind (c.select _) fun _ => c.branchWritePC _ _
    · exact c.bind (c.select _) fun _ => c.branchWritePC _ _

theorem Closed.branchLinkExchangeReg (c : Closed R E) (m : RegNum) : Does R E (branchLinkExchangeReg m) :=
  c.bind (c.readReg m) fun _ => c.bind c.get fun _ => c.bind (c.writeReg _ _ _) fun _ => c.bxWritePC _ _

theorem Closed.branchExchange (c : Closed R E) (m : RegNum) : Does R E (branchExchange m) :=
  c.bind (c.readReg m) fun _ => c.bxWritePC _ _

theorem Closed.compareBranch (c : Closed R E) (n : RegNum) (z : Bool) (offset : Word) : Does R E (compareBranch n z offset) :=
  c.bind (c.readReg n) fun _ => c.ite _ (c.branchTo _) (c.pure _)

theorem Closed.memRead (c : Closed R E) (ctx : Context) (a : Word) (n : Nat) : Does R E (memRead ctx a n) := c.readMemory _ _ _

theorem Closed.memWrite (c : Closed R E) (ctx : Context) (a : Word) (n : Nat) (v : DWord) : Does R E (memWrite ctx a n v) :=
  c.writeMemory _ _ _ _

theorem Closed.tableBranch (c : Closed R E) (n m : RegNum) (size scale : Nat) : Does R E (tableBranch n m size scale) :=
  c.bind (c.readReg n) fun _ => c.bind (c.readReg m) fun _ => c.bind (c.memRead _ _ _) fun _ => c.bind c.readPC fun _ =>
    c.branchWritePC _ _

theorem Closed.supervisorCall (c : Closed R E) (imm32 : Word) : Does R E (supervisorCall imm32) :=
  c.bind c.get fun _ => c.writeReg _ _ _

theorem Closed.storeLoop (c : Closed R E) (ctx : RegNum → Word → Context) (unknown : RegNum → Bool) (base : Word)
    (l : List RegNum) : ∀ off, Does R E (storeLoop ctx unknown base l off) := by
  induction l with
  | nil => intro off; exact c.pure _
  | cons i rest ih =>
    intro off
    exact c.ite _ (c.bind c.draw fun _ => c.bind (c.memWrite _ _ _ _) fun _ => ih _)
      (c.bind (c.readReg i) fun _ => c.bind (c.memWrite _ _ _ _) fun _ => ih _)

theorem Closed.loadLoop (c : Closed R E) (ctx : RegNum → Word → Context) (skip : RegNum → Bool) (base : Word)
    (l : List RegNum) : ∀ off, Does R E (loadLoop ctx skip base l off) := by
  induction l with
  | nil => intro off; exact c.pure _
  | cons i rest ih =>
    intro off
    exact c.bind (c.memRead _ _ _) fun _ => c.ite _ (c.bind (c.loadWritePC _ _) fun _ => ih _)
      (c.ite _ (ih _) (c.bind (c.writeReg _ _ _) fun _ => ih _))

theorem Closed.push (c : Closed R E) (regs : BitVec 16) : Does R E (push regs) :=
  c.bind (c.readReg _) fun _ => c.bind (c.storeLoop _ _ _ _ _) fun _ => c.writeReg _ _ _

theorem Closed.pop (c : Closed R E) (regs : BitVec 16) : Does R E (pop regs) :=
  c.bind (c.readReg _) fun _ => c.bind (c.loadLoop _ _ _ _ _) fun _ =>
    c.ite _ (c.bind c.draw fun _ => c.writeReg _ _ _) (c.writeReg _ _ _)

theorem Closed.loadMultiple (c : Closed R E) (v : Variant) (n : RegNum) (regs : BitVec 16) (w : Bool) :
    Does R E (loadMultiple v n regs w) :=
  c.bind (c.readReg _) fun _ => c.bind (c.loadLoop _ _ _ _ _) fun _ =>
    c.ite _ (c.ite _ (c.bind c.draw fun _ => c.writeReg _ _ _) (c.writeReg _ _ _)) (c.pure _)

theorem Closed.storeMultiple (c : Closed R E) (v : Variant) (n : RegNum) (regs : BitVec 16) (w : Bool) :
    Does R E (storeMultiple v n regs w) :=
  c.bind (c.readReg _) fun _ => c.bind (c.storeLoop _ _ _ _ _) fun _ => c.ite _ (c.writeReg _ _ _) (c.pure _)

theorem Closed.extStoreLoop (c : Closed R E) (l : ExtList) (base : Word) (ns : List (BitVec 5)) :
    ∀ off, Does R E (extStoreLoop l base ns off) := by
  induction ns with
  | nil => intro off; exact c.pure _
  | cons i rest ih => intro off; exact c.bind (c.readRegister _) fun _ => c.bind (c.memWrite _ _ _ _) fun _ => ih _

theorem Closed.extLoadLoop (c : Closed R E) (l : ExtList) (base : Word) (ns : List (BitVec 5)) :
    ∀ off, Does R E (extLoadLoop l base ns off) := by
  induction ns with
  | nil => intro off; exact c.pure _
  | cons i rest ih => intro off; exact c.bind (c.memRead _ _ _) fun _ => c.bind (c.writeExt _ _ _ _) fun _ => ih _

theorem Closed.vpush (c : Closed R E) (l : ExtList) : Does R E (vpush l) :=
  c.bind (c.readReg _) fun _ => c.bind (c.extStoreLoop _ _ _ _) fun _ => c.writeReg _ _ _

theorem Closed.vpop (c : Closed R E) (l : ExtList) : Does R E (vpop l) :=
  c.bind (c.readReg _) fun _ => c.bind (c.extLoadLoop _ _ _ _) fun _ => c.writeReg _ _ _

theorem Closed.addrBase (c : Closed R E) (b : AddrBase) : Does R E b.value := by
  cases b with
  | reg n => exact c.readReg n
  | literal => exact c.bind c.readPC fun _ => c.pure _

theorem Closed.addrOffset (c : Closed R E) (o : AddrOffset) : Does R E o.value := by
  cases o with
  | imm v => exact c.pure _
  | reg m ty a => exact c.bind (c.readReg m) fun _ => c.bind c.carryIn fun _ => c.pure _

theorem Closed.writebackBase (c : Closed R E) (f : AddrForm) (b o : Word) : Does R E (writebackBase f b o) :=
  c.ite _ (c.writeReg _ _ _) (c.pure _)

/-- The part of a load after its alignment test. -/
theorem Closed.loadTail (c : Closed R E) (rt : RegNum) (size : Nat) (f : AddrForm) (ctx : Context) (a b o : Word) :
    Does R E (do
      let data ← Machine.memRead ctx a size
      Machine.writebackBase f b o
      if rt = 15 then Machine.loadWritePC ctx (data.setWidth 32) else Machine.writeReg ctx rt (data.setWidth 32)) :=
  c.bind (c.memRead _ _ _) fun _ => c.bind (c.writebackBase _ _ _) fun _ => c.ite _ (c.loadWritePC _ _) (c.writeReg _ _ _)

theorem Closed.loadSingle (c : Closed R E) (t : Throws E) (rt : RegNum) (size : Nat) (f : AddrForm) :
    Does R E (loadSingle rt size f) :=
  c.bind (c.addrBase _) fun _ => c.bind (c.addrOffset _) fun _ => c.bind (c.unpredictableIf t _) fun _ =>
    c.loadTail _ _ _ _ _ _ _

theorem Closed.storeSingle (c : Closed R E) (rt : RegNum) (size : Nat) (f : AddrForm) : Does R E (storeSingle rt size f) :=
  c.bind (c.addrBase _) fun _ => c.bind (c.addrOffset _) fun _ => c.bind (c.readReg _) fun _ =>
    c.bind (c.memWrite _ _ _ _) fun _ => c.writebackBase _ _ _

/-- An answer whose end state is related to the first: `R` up to `FAULT` where it succeeds, `E` where it fails. -/
def Answers (R : State → State → Prop) (E : Failure → State → State → Prop) (s : State) (a : Answer) : Prop :=
  ∃ u, (a = .next u.succeed ∧ R s u) ∨ ∃ f, a = .next (State.raise f u) ∧ E f s u

theorem Does.answers {h : Handler Unit} (d : Does R E h) (s : State) : Answers R E s (runHandler h s) := by
  cases e : h s with
  | ok a t => exact ⟨t, .inl ⟨runHandler_ok e, (d s).1 a t e⟩⟩
  | error f t => exact ⟨t, .inr ⟨f, runHandler_error e, (d s).2 f t e⟩⟩

/-- Every instruction but IT does what the primitive effects do. -/
theorem exec_does (c : Closed R E) (t : Throws E) (s : State) (i : Instr) (hi : ∀ fc m, i ≠ .itT1 fc m) :
    Answers R E s (exec i s) := by
  cases i with
  | pushA1 => exact Does.answers (c.bind (c.unpredictableIf t _) fun _ => c.push _) s
  | pushA2 => exact Does.answers (c.bind (c.unpredictableIf t _) fun _ => c.push _) s
  | vpushA1 => exact Does.answers (c.bind (c.unpredictableIf t _) fun _ => c.vpush _) s
  | vpushA2 => exact Does.answers (c.bind (c.unpredictableIf t _) fun _ => c.vpush _) s
  | popA1 => exact Does.answers (c.bind (c.archVersion) fun _ => c.bind (c.unpredictableIf t _) fun _ => c.pop _) s
  | popA2 => exact Does.answers (c.bind (c.unpredictableIf t _) fun _ => c.pop _) s
  | vpopA1 => exact Does.answers (c.bind (c.unpredictableIf t _) fun _ => c.vpop _) s
  | vpopA2 => exact Does.answers (c.bind (c.unpredictableIf t _) fun _ => c.vpop _) s
  | svcA1 => exact Does.answers (c.supervisorCall _) s
  | blxImmA2 => exact Does.answers (c.branchLinkExchange _) s
  | bA1 => exact Does.answers (c.branchTo _) s
  | blImmA1 => exact Does.answers (c.branchLink _) s
  | blxRegA1 => exact Does.answers (c.bind (c.unpredictableIf t _) fun _ => c.branchLinkExchangeReg _) s
  | bxA1 => exact Does.answers (c.branchExchange _) s
  | adcImmA1 => exact Does.answers (c.bind (c.armImm _) fun _ => c.dataProc _ _ _ _ _) s
  | adcRegA1 => exact Does.answers (c.dataProc _ _ _ _ _) s
  | addImmA1 => exact Does.answers (c.bind (c.armImm _) fun _ => c.dataProc _ _ _ _ _) s
  | addRegA1 => exact Does.answers (c.dataProc _ _ _ _ _) s
  | andImmA1 => exact Does.answers (c.bind (c.armImm _) fun _ => c.dataProc _ _ _ _ _) s
  | andRegA1 => exact Does.answers (c.dataProc _ _ _ _ _) s
  | eorImmA1 => exact Does.answers (c.bind (c.armImm _) fun _ => c.dataProc _ _ _ _ _) s
  | eorRegA1 => exact Does.answers (c.dataProc _ _ _ _ _) s
  | orrImmA1 => exact Does.answers (c.bind (c.armImm _) fun _ => c.dataProc _ _ _ _ _) s
  | orrRegA1 => exact Does.answers (c.dataProc _ _ _ _ _) s
  | rsbImmA1 => exact Does.answers (c.bind (c.armImm _) fun _ => c.dataProc _ _ _ _ _) s
  | rsbRegA1 => exact Does.answers (c.dataProc _ _ _ _ _) s
  | rscImmA1 => exact Does.answers (c.bind (c.armImm _) fun _ => c.dataProc _ _ _ _ _) s
  | rscRegA1 => exact Does.answers (c.dataProc _ _ _ _ _) s
  | subImmA1 => exact Does.answers (c.bind (c.armImm _) fun _ => c.dataProc _ _ _ _ _) s
  | subRegA1 => exact Does.answers (c.dataProc _ _ _ _ _) s
  | teqImmA1 => exact Does.answers (c.bind (c.armImm _) fun _ => c.compare _ _ _) s
  | teqRegA1 => exact Does.answers (c.compare _ _ _) s
  | tstImmA1 => exact Does.answers (c.bind (c.armImm _) fun _ => c.compare _ _ _) s
  | tstRegA1 => exact Does.answers (c.compare _ _ _) s
  | mvnImmA1 => exact Does.answers (c.bind (c.armImm _) fun _ => c.dataProc _ _ _ _ _) s
  | mvnRegA1 => exact Does.answers (c.dataProc _ _ _ _ _) s
  | cmnImmA1 => exact Does.answers (c.bind (c.armImm _) fun _ => c.compare _ _ _) s
  | cmnRegA1 => exact Does.answers (c.compare _ _ _) s
  | cmpImmA1 => exact Does.answers (c.bind (c.armImm _) fun _ => c.compare _ _ _) s
  | cmpRegA1 => exact Does.answers (c.compare _ _ _) s
  | asrImmA1 => exact Does.answers (c.shiftImm _ _ _ _ _) s
  | asrRegA1 => exact Does.answers (c.bind (c.unpredictableIf t _) fun _ => c.shiftReg _ _ _ _ _) s
  | lslImmA1 => exact Does.answers (c.shiftImm _ _ _ _ _) s
  | lslRegA1 => exact Does.answers (c.bind (c.unpredictableIf t _) fun _ => c.shiftReg _ _ _ _ _) s
  | lsrImmA1 => exact Does.answers (c.shiftImm _ _ _ _ _) s
  | lsrRegA1 => exact Does.answers (c.bind (c.unpredictableIf t _) fun _ => c.shiftReg _ _ _ _ _) s
  | rrxA1 => exact Does.answers (c.shiftImm _ _ _ _ _) s
  | rorImmA1 => exact Does.answers (c.shiftImm _ _ _ _ _) s
  | rorRegA1 => exact Does.answers (c.bind (c.unpredictableIf t _) fun _ => c.shiftReg _ _ _ _ _) s
  | ldmA1 => exact Does.answers (c.bind (c.archVersion) fun _ => c.bind (c.unpredictableIf t _) fun _ => c.loadMultiple _ _ _ _) s
  | ldmdaA1 => exact Does.answers (c.bind (c.archVersion) fun _ => c.bind (c.unpredictableIf t _) fun _ => c.loadMultiple _ _ _ _) s
  | ldmdbA1 => exact Does.answers (c.bind (c.archVersion) fun _ => c.bind (c.unpredictableIf t _) fun _ => c.loadMultiple _ _ _ _) s
  | ldmibA1 => exact Does.answers (c.bind (c.archVersion) fun _ => c.bind (c.unpredictableIf t _) fun _ => c.loadMultiple _ _ _ _) s
  | ldrLitA1 => exact Does.answers (c.loadSingle t _ _ _) s
  | ldrImmA1 => exact Does.answers (c.bind (c.notInSubsetIf t _) fun _ => c.bind (c.unpredictableIf t _) fun _ => c.loadSingle t _ _ _) s
  | ldrRegA1 => exact Does.answers (c.bind (c.notInSubsetIf t _) fun _ => c.bind (c.unpredictableIf t _) fun _ => c.loadSingle t _ _ _) s
  | ldrbLitA1 => exact Does.answers (c.bind (c.unpredictableIf t _) fun _ => c.loadSingle t _ _ _) s
  | ldrbImmA1 => exact Does.answers (c.bind (c.notInSubsetIf t _) fun _ => c.bind (c.unpredictableIf t _) fun _ => c.loadSingle t _ _ _) s
  | ldrbRegA1 => exact Does.answers (c.bind (c.notInSubsetIf t _) fun _ => c.bind (c.unpredictableIf t _) fun _ => c.loadSingle t _ _ _) s
  | stmA1 => exact Does.answers (c.bind (c.unpredictableIf t _) fun _ => c.storeMultiple _ _ _ _) s
  | stmdaA1 => exact Does.answers (c.bind (c.unpredictableIf t _) fun _ => c.storeMultiple _ _ _ _) s
  | stmdbA1 => exact Does.answers (c.bind (c.unpredictableIf t _) fun _ => c.storeMultiple _ _ _ _) s
  | stmibA1 => exact Does.answers (c.bind (c.unpredictableIf t _) fun _ => c.storeMultiple _ _ _ _) s
  | strImmA1 => exact Does.answers (c.bind (c.notInSubsetIf t _) fun _ => c.bind (c.unpredictableIf t _) fun _ => c.storeSingle _ _ _) s
  | strRegA1 => exact Does.answers (c.bind (c.notInSubsetIf t _) fun _ => c.bind (c.unpredictableIf t _) fun _ => c.storeSingle _ _ _) s
  | strbImmA1 => exact Does.answers (c.bind (c.notInSubsetIf t _) fun _ => c.bind (c.unpredictableIf t _) fun _ => c.storeSingle _ _ _) s
  | strbRegA1 => exact Does.answers (c.bind (c.notInSubsetIf t _) fun _ => c.bind (c.unpredictableIf t _) fun _ => c.storeSingle _ _ _) s
  | pushT1 => exact Does.answers (c.bind (c.unpredictableIf t _) fun _ => c.push _) s
  | popT1 => exact Does.answers (c.bind (c.inITNotLast) fun _ => c.bind (c.unpredictableIf t _) fun _ => c.pop _) s
  | addSpImmT1 => exact Does.answers (c.bind (c.plainImm _) fun _ => c.dataProc _ _ _ _ _) s
  | addSpImmT2 => exact Does.answers (c.bind (c.plainImm _) fun _ => c.dataProc _ _ _ _ _) s
  | subSpImmT1 => exact Does.answers (c.bind (c.plainImm _) fun _ => c.dataProc _ _ _ _ _) s
  | svcT1 => exact Does.answers (c.supervisorCall _) s
  | bT1 => exact Does.answers (c.bind (c.unpredictableIf t _) fun _ => c.bind (c.unpredictableInIT t) fun _ => c.branchTo _) s
  | bT2 => exact Does.answers (c.bind (c.unpredictableInITNotLast t) fun _ => c.branchTo _) s
  | blxRegT1 => exact Does.answers (c.bind (c.unpredictableIf t _) fun _ => c.bind (c.unpredictableInITNotLast t) fun _ => c.branchLinkExchangeReg _) s
  | bxT1 => exact Does.answers (c.bind (c.unpredictableInITNotLast t) fun _ => c.branchExchange _) s
  | cbzT1 => exact Does.answers (c.bind (c.unpredictableInIT t) fun _ => c.compareBranch _ _ _) s
  | cbnzT1 => exact Does.answers (c.bind (c.unpredictableInIT t) fun _ => c.compareBranch _ _ _) s
  | itT1 fc m => exact absurd rfl (hi fc m)
  | adcRegT1 => exact Does.answers (c.bind (c.flagsOutsideIT) fun _ => c.dataProc _ _ _ _ _) s
  | addImmT1 => exact Does.answers (c.bind (c.plainImm _) fun _ => c.bind (c.flagsOutsideIT) fun _ => c.dataProc _ _ _ _ _) s
  | addImmT2 => exact Does.answers (c.bind (c.plainImm _) fun _ => c.bind (c.flagsOutsideIT) fun _ => c.dataProc _ _ _ _ _) s
  | addRegT1 => exact Does.answers (c.bind (c.flagsOutsideIT) fun _ => c.dataProc _ _ _ _ _) s
  | addRegT2 => exact Does.answers (c.bind (c.inITNotLast) fun _ => c.bind (c.unpredictableIf t _) fun _ => c.dataProc _ _ _ _ _) s
  | andRegT1 => exact Does.answers (c.bind (c.flagsOutsideIT) fun _ => c.dataProc _ _ _ _ _) s
  | eorRegT1 => exact Does.answers (c.bind (c.flagsOutsideIT) fun _ => c.dataProc _ _ _ _ _) s
  | orrRegT1 => exact Does.answers (c.bind (c.flagsOutsideIT) fun _ => c.dataProc _ _ _ _ _) s
  | mvnRegT1 => exact Does.answers (c.bind (c.flagsOutsideIT) fun _ => c.dataProc _ _ _ _ _) s
  | rsbImmT1 => exact Does.answers (c.bind (c.plainImm _) fun _ => c.bind (c.flagsOutsideIT) fun _ => c.dataProc _ _ _ _ _) s
  | subImmT1 => exact Does.answers (c.bind (c.plainImm _) fun _ => c.bind (c.flagsOutsideIT) fun _ => c.dataProc _ _ _ _ _) s
  | subImmT2 => exact Does.answers (c.bind (c.plainImm _) fun _ => c.bind (c.flagsOutsideIT) fun _ => c.dataProc _ _ _ _ _) s
  | subRegT1 => exact Does.answers (c.bind (c.flagsOutsideIT) fun _ => c.dataProc _ _ _ _ _) s
  | cmpImmT1 => exact Does.answers (c.bind (c.plainImm _) fun _ => c.compare _ _ _) s
  | cmpRegT1 => exact Does.answers (c.compare _ _ _) s
  | cmpRegT2 => exact Does.answers (c.bind (c.unpredictableIf t _) fun _ => c.compare _ _ _) s
  | cmnRegT1 => exact Does.answers (c.compare _ _ _) s
  | tstRegT1 => exact Does.answers (c.compare _ _ _) s
  | asrImmT1 => exact Does.answers (c.bind (c.flagsOutsideIT) fun _ => c.shiftImm _ _ _ _ _) s
  | asrRegT1 => exact Does.answers (c.bind (c.flagsOutsideIT) fun _ => c.shiftReg _ _ _ _ _) s
  | lslImmT1 => exact Does.answers (c.bind (c.inIT) fun _ => c.bind (c.unpredictableIf t _) fun _ => c.bind (c.flagsOutsideIT) fun _ => c.shiftImm _ _ _ _ _) s
  | lslRegT1 => exact Does.answers (c.bind (c.flagsOutsideIT) fun _ => c.shiftReg _ _ _ _ _) s
  | lsrImmT1 => exact Does.answers (c.bind (c.flagsOutsideIT) fun _ => c.shiftImm _ _ _ _ _) s
  | lsrRegT1 => exact Does.answers (c.bind (c.flagsOutsideIT) fun _ => c.shiftReg _ _ _ _ _) s
  | rorRegT1 => exact Does.answers (c.bind (c.flagsOutsideIT) fun _ => c.shiftReg _ _ _ _ _) s
  | ldmT1 => exact Does.answers (c.bind (c.unpredictableIf t _) fun _ => c.loadMultiple _ _ _ _) s
  | stmT1 => exact Does.answers (c.bind (c.unpredictableIf t _) fun _ => c.storeMultiple _ _ _ _) s
  | ldrImmT1 => exact Does.answers (c.loadSingle t _ _ _) s
  | ldrImmT2 => exact Does.answers (c.loadSingle t _ _ _) s
  | ldrLitT1 => exact Does.answers (c.loadSingle t _ _ _) s
  | ldrRegT1 => exact Does.answers (c.loadSingle t _ _ _) s
  | strImmT1 => exact Does.answers (c.storeSingle _ _ _) s
  | strImmT2 => exact Does.answers (c.storeSingle _ _ _) s
  | strRegT1 => exact Does.answers (c.storeSingle _ _ _) s
  | ldrbImmT1 => exact Does.answers (c.loadSingle t _ _ _) s
  | ldrbRegT1 => exact Does.answers (c.loadSingle t _ _ _) s
  | strbImmT1 => exact Does.answers (c.storeSingle _ _ _) s
  | strbRegT1 => exact Does.answers (c.storeSingle _ _ _) s
  | pushT2 => exact Does.answers (c.bind (c.unpredictableIf t _) fun _ => c.push _) s
  | pushT3 => exact Does.answers (c.bind (c.unpredictableIf t _) fun _ => c.push _) s
  | popT2 => exact Does.answers (c.bind (c.inITNotLast) fun _ => c.bind (c.unpredictableIf t _) fun _ => c.pop _) s
  | popT3 => exact Does.answers (c.bind (c.inITNotLast) fun _ => c.bind (c.unpredictableIf t _) fun _ => c.pop _) s
  | vpushT1 => exact Does.answers (c.bind (c.unpredictableIf t _) fun _ => c.vpush _) s
  | vpushT2 => exact Does.answers (c.bind (c.unpredictableIf t _) fun _ => c.vpush _) s
  | vpopT1 => exact Does.answers (c.bind (c.unpredictableIf t _) fun _ => c.vpop _) s
  | vpopT2 => exact Does.answers (c.bind (c.unpredictableIf t _) fun _ => c.vpop _) s
  | bT3 => exact Does.answers (c.bind (c.notInSubsetIf t _) fun _ => c.bind (c.unpredictableInIT t) fun _ => c.branchTo _) s
  | bT4 => exact Does.answers (c.bind (c.unpredictableInITNotLast t) fun _ => c.branchTo _) s
  | blxImmT2 => exact Does.answers (c.bind (c.unpredictableIf t _) fun _ => c.bind (c.unpredictableInITNotLast t) fun _ => c.branchLinkExchange _) s
  | blImmT1 => exact Does.answers (c.bind (c.unpredictableInITNotLast t) fun _ => c.branchLink _) s
  | tbbT1 => exact Does.answers (c.bind (c.unpredictableIf t _) fun _ => c.bind (c.unpredictableInITNotLast t) fun _ => c.tableBranch _ _ _ _) s
  | tbhT1 => exact Does.answers (c.bind (c.unpredictableIf t _) fun _ => c.bind (c.unpredictableInITNotLast t) fun _ => c.tableBranch _ _ _ _) s
  | cmnImmT1 => exact Does.answers (c.bind (c.unpredictableIf t _) fun _ => c.bind (c.thumbImm t _ _ _) fun _ => c.compare _ _ _) s
  | cmpImmT2 => exact Does.answers (c.bind (c.unpredictableIf t _) fun _ => c.bind (c.thumbImm t _ _ _) fun _ => c.compare _ _ _) s
  | tstImmT1 => exact Does.answers (c.bind (c.unpredictableIf t _) fun _ => c.bind (c.thumbImm t _ _ _) fun _ => c.compare _ _ _) s
  | teqImmT1 => exact Does.answers (c.bind (c.unpredictableIf t _) fun _ => c.bind (c.thumbImm t _ _ _) fun _ => c.compare _ _ _) s
  | cmnRegT2 => exact Does.answers (c.bind (c.unpredictableIf t _) fun _ => c.compare _ _ _) s
  | cmpRegT3 => exact Does.answers (c.bind (c.unpredictableIf t _) fun _ => c.compare _ _ _) s
  | tstRegT2 => exact Does.answers (c.bind (c.unpredictableIf t _) fun _ => c.compare _ _ _) s
  | teqRegT1 => exact Does.answers (c.bind (c.unpredictableIf t _) fun _ => c.compare _ _ _) s
  | adcImmT1 => exact Does.answers (c.bind (c.unpredictableIf t _) fun _ => c.bind (c.thumbImm t _ _ _) fun _ => c.dataProc _ _ _ _ _) s
  | adcRegT2 => exact Does.answers (c.bind (c.unpredictableIf t _) fun _ => c.dataProc _ _ _ _ _) s
  | addImmT3 => exact Does.answers (c.bind (c.unpredictableIf t _) fun _ => c.bind (c.thumbImm t _ _ _) fun _ => c.dataProc _ _ _ _ _) s
  | addImmT4 => exact Does.answers (c.bind (c.notInSubsetIf t _) fun _ => c.bind (c.unpredictableIf t _) fun _ => c.bind (c.plainImm _) fun _ => c.dataProc _ _ _ _ _) s
  | addRegT3 => exact Does.answers (c.bind (c.unpredictableIf t _) fun _ => c.dataProc _ _ _ _ _) s
  | andImmT1 => exact Does.answers (c.bind (c.unpredictableIf t _) fun _ => c.bind (c.thumbImm t _ _ _) fun _ => c.dataProc _ _ _ _ _) s
  | andRegT2 => exact Does.answers (c.bind (c.unpredictableIf t _) fun _ => c.dataProc _ _ _ _ _) s
  | eorImmT1 => exact Does.answers (c.bind (c.unpredictableIf t _) fun _ => c.bind (c.thumbImm t _ _ _) fun _ => c.dataProc _ _ _ _ _) s
  | eorRegT2 => exact Does.answers (c.bind (c.unpredictableIf t _) fun _ => c.dataProc _ _ _ _ _) s
  | mvnImmT1 => exact Does.answers (c.bind (c.unpredictableIf t _) fun _ => c.bind (c.thumbImm t _ _ _) fun _ => c.dataProc _ _ _ _ _) s
  | mvnRegT2 => exact Does.answers (c.bind (c.unpredictableIf t _) fun _ => c.dataProc _ _ _ _ _) s
  | lslImmT2 => exact Does.answers (c.bind (c.unpredictableIf t _) fun _ => c.shiftImm _ _ _ _ _) s
  | lsrImmT2 => exact Does.answers (c.bind (c.unpredictableIf t _) fun _ => c.shiftImm _ _ _ _ _) s
  | asrImmT2 => exact Does.answers (c.bind (c.unpredictableIf t _) fun _ => c.shiftImm _ _ _ _ _) s
  | rrxT1 => exact Does.answers (c.bind (c.unpredictableIf t _) fun _ => c.shiftImm _ _ _ _ _) s
  | rorImmT1 => exact Does.answers (c.bind (c.unpredictableIf t _) fun _ => c.shiftImm _ _ _ _ _) s
  | orrImmT1 => exact Does.answers (c.bind (c.notInSubsetIf t _) fun _ => c.bind (c.unpredictableIf t _) fun _ => c.bind (c.thumbImm t _ _ _) fun _ => c.dataProc _ _ _ _ _) s
  | orrRegT2 => exact Does.answers (c.bind (c.notInSubsetIf t _) fun _ => c.bind (c.unpredictableIf t _) fun _ => c.dataProc _ _ _ _ _) s
  | rsbImmT2 => exact Does.answers (c.bind (c.unpredictableIf t _) fun _ => c.bind (c.thumbImm t _ _ _) fun _ => c.dataProc _ _ _ _ _) s
  | rsbRegT1 => exact Does.answers (c.bind (c.unpredictableIf t _) fun _ => c.dataProc _ _ _ _ _) s
  | subImmT3 => exact Does.answers (c.bind (c.unpredictableIf t _) fun _ => c.bind (c.thumbImm t _ _ _) fun _ => c.dataProc _ _ _ _ _) s
  | subImmT4 => exact Does.answers (c.bind (c.notInSubsetIf t _) fun _ => c.bind (c.unpredictableIf t _) fun _ => c.bind (c.plainImm _) fun _ => c.dataProc _ _ _ _ _) s
  | subRegT2 => exact Does.answers (c.bind (c.unpredictableIf t _) fun _ => c.dataProc _ _ _ _ _) s
  | asrRegT2 => exact Does.answers (c.bind (c.unpredictableIf t _) fun _ => c.shiftReg _ _ _ _ _) s
  | lslRegT2 => exact Does.answers (c.bind (c.unpredictableIf t _) fun _ => c.shiftReg _ _ _ _ _) s
  | lsrRegT2 => exact Does.answers (c.bind (c.unpredictableIf t _) fun _ => c.shiftReg _ _ _ _ _) s
  | rorRegT2 => exact Does.answers (c.bind (c.unpredictableIf t _) fun _ => c.shiftReg _ _ _ _ _) s
  | ldmT2 => exact Does.answers (c.bind (c.inITNotLast) fun _ => c.bind (c.unpredictableIf t _) fun _ => c.loadMultiple _ _ _ _) s
  | ldmdbT1 => exact Does.answers (c.bind (c.inITNotLast) fun _ => c.bind (c.unpredictableIf t _) fun _ => c.loadMultiple _ _ _ _) s
  | stmT2 => exact Does.answers (c.bind (c.unpredictableIf t _) fun _ => c.storeMultiple _ _ _ _) s
  | stmdbT1 => exact Does.answers (c.bind (c.unpredictableIf t _) fun _ => c.storeMultiple _ _ _ _) s
  | ldrLitT2 => exact Does.answers (c.bind (c.inITNotLast) fun _ => c.bind (c.unpredictableIf t _) fun _ => c.loadSingle t _ _ _) s
  | ldrImmT3 => exact Does.answers (c.bind (c.inITNotLast) fun _ => c.bind (c.unpredictableIf t _) fun _ => c.loadSingle t _ _ _) s
  | ldrImmT4 => exact Does.answers (c.bind (c.notInSubsetIf t _) fun _ => c.bind (c.inITNotLast) fun _ => c.bind (c.unpredictableIf t _) fun _ => c.loadSingle t _ _ _) s
  | ldrRegT2 => exact Does.answers (c.bind (c.inITNotLast) fun _ => c.bind (c.unpredictableIf t _) fun _ => c.loadSingle t _ _ _) s
  | ldrbLitT1 => exact Does.answers (c.bind (c.notInSubsetIf t _) fun _ => c.bind (c.unpredictableIf t _) fun _ => c.loadSingle t _ _ _) s
  | ldrbImmT2 => exact Does.answers (c.bind (c.notInSubsetIf t _) fun _ => c.bind (c.unpredictableIf t _) fun _ => c.loadSingle t _ _ _) s
  | ldrbImmT3 => exact Does.answers (c.bind (c.notInSubsetIf t _) fun _ => c.bind (c.unpredictableIf t _) fun _ => c.loadSingle t _ _ _) s
  | ldrbRegT2 => exact Does.answers (c.bind (c.notInSubsetIf t _) fun _ => c.bind (c.unpredictableIf t _) fun _ => c.loadSingle t _ _ _) s
  | strImmT3 => exact Does.answers (c.bind (c.unpredictableIf t _) fun _ => c.storeSingle _ _ _) s
  | strImmT4 => exact Does.answers (c.bind (c.notInSubsetIf t _) fun _ => c.bind (c.unpredictableIf t _) fun _ => c.storeSingle _ _ _) s
  | strRegT2 => exact Does.answers (c.bind (c.unpredictableIf t _) fun _ => c.storeSingle _ _ _) s
  | strbImmT2 => exact Does.answers (c.bind (c.unpredictableIf t _) fun _ => c.storeSingle _ _ _) s
  | strbImmT3 => exact Does.answers (c.bind (c.notInSubsetIf t _) fun _ => c.bind (c.unpredictableIf t _) fun _ => c.storeSingle _ _ _) s
  | strbRegT2 => exact Does.answers (c.bind (c.unpredictableIf t _) fun _ => c.storeSingle _ _ _) s

/-- IT does what the primitive effects and the start of a session do. -/
theorem execItT1_does (c : Closed R E) (t : Throws E)
    (session : ∀ (s : State) byte x, initIT byte = some x → R s { s with it := x }) (s : State) (fc m : BitVec 4) :
    Answers R E s (exec (.itT1 fc m) s) :=
  Does.answers (h := do
    Machine.notInSubsetIf (m == 0)
    Machine.unpredictableInIT
    match initIT (fc ++ m) with
    | none => throw .unpredictableOperands
    | some x => setIT x)
    (c.bind (c.notInSubsetIf t _) fun _ => c.bind (c.unpredictableInIT t) fun _ => by
      cases e : initIT (fc ++ m) with
      | none => exact c.thrown t (by simp)
      | some x =>
        intro s
        refine ⟨fun a u h => ?_, fun f u h => by simp [setIT] at h⟩
        simp only [setIT, handler_modify, EStateM.Result.ok.injEq] at h
        rw [← h.2]
        exact session s _ x e) s

/-- Every instruction does what the primitive effects and the start of a session do. -/
theorem exec_does_all (c : Closed R E) (t : Throws E)
    (session : ∀ (s : State) byte x, initIT byte = some x → R s { s with it := x }) (s : State) (i : Instr) :
    Answers R E s (exec i s) := by
  by_cases h : ∃ fc m, i = .itT1 fc m
  · obtain ⟨fc, m, rfl⟩ := h
    exact execItT1_does c t session s fc m
  · exact exec_does c t s i fun fc m e => h ⟨fc, m, e⟩

/-! ## Failures other than a refused port call change nothing -/

theorem Untouched.refl (s : State) : Untouched s s := ⟨[], rfl, by simp⟩

theorem Untouched.trans {s t u : State} (h : Untouched s t) (k : Untouched t u) : Untouched s u := by
  obtain ⟨a, rfl, ha⟩ := h
  obtain ⟨b, rfl, hb⟩ := k
  refine ⟨b ++ a, by simp, fun c hc => ?_⟩
  rcases List.mem_append.1 hc with h | h
  · exact hb c h
  · exact ha c h

/-- `h` only reads, however it ends. -/
def Quiet {α : Type} (h : Handler α) : Prop :=
  ∀ s, (∀ a t, h s = .ok a t → Untouched s t) ∧ (∀ f t, h s = .error f t → f ≠ .accessFailure → Untouched s t)

/-- A failure of `h` other than a refused port call leaves the state untouched. -/
def Precise {α : Type} (h : Handler α) : Prop := ∀ s f t, h s = .error f t → f ≠ .accessFailure → Untouched s t

theorem Quiet.precise {α : Type} {h : Handler α} (q : Quiet h) : Precise h := fun s => (q s).2

theorem Precise.bind {α β : Type} {h : Handler α} {k : α → Handler β} (q : Quiet h) (p : ∀ a, Precise (k a)) :
    Precise (h >>= k) := fun s f t ht hf => by
  simp only [handler_bind] at ht
  cases e : h s with
  | ok a u =>
    rw [e] at ht
    exact ((q s).1 a u e).trans (p a u f t ht hf)
  | error g u =>
    rw [e] at ht
    cases ht
    exact (q s).2 _ _ e hf

theorem Quiet.bind {α β : Type} {h : Handler α} {k : α → Handler β} (q : Quiet h) (p : ∀ a, Quiet (k a)) :
    Quiet (h >>= k) := fun s => by
  refine ⟨fun b t ht => ?_, Precise.bind q (fun a => (p a).precise) s⟩
  simp only [handler_bind] at ht
  cases e : h s with
  | ok a u =>
    rw [e] at ht
    exact ((q s).1 a u e).trans ((p a u).1 b t ht)
  | error g u =>
    rw [e] at ht
    cases ht

theorem Quiet.still {α : Type} {h : Handler α} (e : ∀ s, ∃ a, h s = .ok a s) : Quiet h := fun s => by
  obtain ⟨a, e⟩ := e s
  refine ⟨fun b t hb => ?_, fun f t hb => ?_⟩
  · rw [e] at hb
    cases hb
    exact .refl s
  · rw [e] at hb
    cases hb

theorem Quiet.thrown {α : Type} (f : Failure) : Quiet (throw f : Handler α) := fun s => by
  refine ⟨fun a t h => by simp at h, fun g t h _ => ?_⟩
  simp only [handler_throw, EStateM.Result.error.injEq] at h
  rw [← h.2]
  exact .refl s

theorem quiet_pure {α : Type} (a : α) : Quiet (pure a : Handler α) := .still fun _ => ⟨a, rfl⟩
theorem quiet_carryIn : Quiet carryIn := .still fun _ => ⟨_, rfl⟩
theorem quiet_readPC : Quiet readPC := .still fun _ => ⟨_, rfl⟩
theorem quiet_inIT : Quiet inIT := .still fun _ => ⟨_, rfl⟩
theorem quiet_inITNotLast : Quiet inITNotLast := .still fun _ => ⟨_, rfl⟩
theorem quiet_archVersion : Quiet archVersion := .still fun _ => ⟨_, rfl⟩
theorem quiet_flagsOutsideIT : Quiet flagsOutsideIT := .still fun _ => ⟨_, rfl⟩
theorem quiet_armImm (imm12 : BitVec 12) : Quiet (armImm imm12) := .still fun _ => ⟨_, rfl⟩
theorem quiet_plainImm (v : Word) : Quiet (plainImm v) := .still fun _ => ⟨_, rfl⟩

theorem quiet_unpredictableIf (b : Bool) : Quiet (unpredictableIf b) := by
  cases b
  · exact quiet_pure _
  · exact .thrown _

theorem quiet_notInSubsetIf (b : Bool) : Quiet (notInSubsetIf b) := by
  cases b
  · exact quiet_pure _
  · exact .thrown _

theorem quiet_unpredictableInIT : Quiet unpredictableInIT := .bind quiet_inIT fun _ => quiet_unpredictableIf _
theorem quiet_unpredictableInITNotLast : Quiet unpredictableInITNotLast :=
  .bind quiet_inITNotLast fun _ => quiet_unpredictableIf _

theorem quiet_thumbImm (i1 : BitVec 1) (imm3 : BitVec 3) (imm8 : BitVec 8) : Quiet (thumbImm i1 imm3 imm8) :=
  .bind quiet_carryIn fun _ => by
    split
    · exact quiet_pure _
    · exact .thrown _

theorem quiet_readReg (n : RegNum) : Quiet (readReg n) := by
  unfold readReg
  split
  · exact quiet_readPC
  · refine .bind (fun s => ⟨fun a t h => ?_, fun f t h hf => ?_⟩) fun _ => quiet_pure _
    · simp only [callRead, portReadRegister] at h
      split at h
      · rename_i u e
        cases h
        simp only [Prod.mk.injEq] at e
        rw [← e.2]
        exact ⟨[.readRegister (.core n) 0 (if (!s.refuses (.readReg (.core n))) = true then s.regValue (.core n) else 0)
          (!s.refuses (.readReg (.core n)))], rfl, by
            intro c hc
            rw [List.mem_singleton.1 hc]
            exact ⟨rfl, e.1.2⟩⟩
      · simp at h
    · simp only [callRead, portReadRegister] at h
      split at h
      · simp at h
      · cases h
        exact absurd rfl hf

theorem quiet_addrBase (b : AddrBase) : Quiet b.value := by
  cases b with
  | reg n => exact quiet_readReg n
  | literal => exact .bind quiet_readPC fun _ => quiet_pure _

theorem quiet_addrOffset (o : AddrOffset) : Quiet o.value := by
  cases o with
  | imm v => exact quiet_pure _
  | reg m ty a => exact .bind (quiet_readReg m) fun _ => .bind quiet_carryIn fun _ => quiet_pure _

theorem callRead_fails {f : State → (DWord × Bool) × State} {s t : State} {e : Failure} (h : callRead f s = .error e t) :
    e = .accessFailure := by
  unfold callRead at h
  split at h
  · simp at h
  · cases h; rfl

theorem callWrite_fails {f : State → Bool × State} {s t : State} {e : Failure} (h : callWrite f s = .error e t) :
    e = .accessFailure := by
  unfold callWrite at h
  split at h
  · simp at h
  · cases h; rfl

/-- The primitive effects raise nothing but `AccessFailure` (60_exceptions.md rule R403). -/
theorem closedPlain : Closed (fun _ _ => True) (fun f _ _ => f = .accessFailure) where
  refl _ := trivial
  trans _ _ := trivial
  tail _ h := h
  readRegister _ := fun _ => ⟨fun _ _ _ => trivial, fun _ _ h => callRead_fails h⟩
  writeCore _ _ _ := fun _ => ⟨fun _ _ _ => trivial, fun _ _ h => callWrite_fails h⟩
  writeExt _ _ _ _ := fun _ => ⟨fun _ _ _ => trivial, fun _ _ h => callWrite_fails h⟩
  readMemory _ _ _ := fun _ => ⟨fun _ _ _ => trivial, fun _ _ h => callRead_fails h⟩
  writeMemory _ _ _ _ := fun _ => ⟨fun _ _ _ => trivial, fun _ _ h => callWrite_fails h⟩
  draw := fun _ => ⟨fun _ _ _ => trivial, fun _ _ h => by simp at h⟩
  flags r c v := fun s => ⟨fun _ _ _ => trivial, fun _ _ h => callWrite_fails (show callWrite _ _ = _ from h)⟩
  select set := fun s => ⟨fun _ _ _ => trivial, fun f t h => by
    simp only [selectInstrSet, handler_bind, handler_get, handler_ite] at h
    split at h
    · simp at h
    · simp only [handler_modify] at h
      split at h
      · simp at h
      · rename_i e
        cases h
        exact callWrite_fails e⟩

theorem Precise.of_plain {α : Type} {h : Handler α}
    (d : Does (fun _ _ => True) (fun f _ _ => f = .accessFailure) h) : Precise h := fun s f t ht hf => absurd ((d s).2 f t ht) hf

theorem precise_loadSingle (rt : RegNum) (size : Nat) (f : AddrForm) : Precise (loadSingle rt size f) :=
  .bind (quiet_addrBase _) fun _ => .bind (quiet_addrOffset _) fun _ => .bind (quiet_unpredictableIf _) fun _ =>
    .of_plain (closedPlain.loadTail _ _ _ _ _ _ _)

/-- An answer that fails otherwise than by a refused port call leaves the state untouched. -/
def PreciseAnswer (s : State) (a : Answer) : Prop :=
  ∀ t, a = .next t → t.fault = none ∨ t.fault = some .accessFailure ∨ ∃ f u, t = State.raise f u ∧ Untouched s u

theorem Precise.answer {h : Handler Unit} (p : Precise h) (s : State) : PreciseAnswer s (runHandler h s) := fun t ht => by
  unfold runHandler at ht
  split at ht
  · cases ht
    exact .inl rfl
  · rename_i f u e
    cases ht
    by_cases hf : f = .accessFailure
    · exact .inr (.inl (by simp [hf]))
    · exact .inr (.inr ⟨f, u, rfl, p s f u e hf⟩)

/-- Every instruction is precise (60_exceptions.md rules R402, R405). -/
theorem exec_precise (s : State) (i : Instr) : PreciseAnswer s (exec i s) := by
  cases i with
  | pushA1 => exact Precise.answer (.bind (quiet_unpredictableIf _) fun _ => .of_plain (closedPlain.push _)) s
  | pushA2 => exact Precise.answer (.bind (quiet_unpredictableIf _) fun _ => .of_plain (closedPlain.push _)) s
  | vpushA1 => exact Precise.answer (.bind (quiet_unpredictableIf _) fun _ => .of_plain (closedPlain.vpush _)) s
  | vpushA2 => exact Precise.answer (.bind (quiet_unpredictableIf _) fun _ => .of_plain (closedPlain.vpush _)) s
  | popA1 => exact Precise.answer (.bind (quiet_archVersion) fun _ => .bind (quiet_unpredictableIf _) fun _ => .of_plain (closedPlain.pop _)) s
  | popA2 => exact Precise.answer (.bind (quiet_unpredictableIf _) fun _ => .of_plain (closedPlain.pop _)) s
  | vpopA1 => exact Precise.answer (.bind (quiet_unpredictableIf _) fun _ => .of_plain (closedPlain.vpop _)) s
  | vpopA2 => exact Precise.answer (.bind (quiet_unpredictableIf _) fun _ => .of_plain (closedPlain.vpop _)) s
  | svcA1 => exact Precise.answer (.of_plain (closedPlain.supervisorCall _)) s
  | blxImmA2 => exact Precise.answer (.of_plain (closedPlain.branchLinkExchange _)) s
  | bA1 => exact Precise.answer (.of_plain (closedPlain.branchTo _)) s
  | blImmA1 => exact Precise.answer (.of_plain (closedPlain.branchLink _)) s
  | blxRegA1 => exact Precise.answer (.bind (quiet_unpredictableIf _) fun _ => .of_plain (closedPlain.branchLinkExchangeReg _)) s
  | bxA1 => exact Precise.answer (.of_plain (closedPlain.branchExchange _)) s
  | adcImmA1 => exact Precise.answer (.bind (quiet_armImm _) fun _ => .of_plain (closedPlain.dataProc _ _ _ _ _)) s
  | adcRegA1 => exact Precise.answer (.of_plain (closedPlain.dataProc _ _ _ _ _)) s
  | addImmA1 => exact Precise.answer (.bind (quiet_armImm _) fun _ => .of_plain (closedPlain.dataProc _ _ _ _ _)) s
  | addRegA1 => exact Precise.answer (.of_plain (closedPlain.dataProc _ _ _ _ _)) s
  | andImmA1 => exact Precise.answer (.bind (quiet_armImm _) fun _ => .of_plain (closedPlain.dataProc _ _ _ _ _)) s
  | andRegA1 => exact Precise.answer (.of_plain (closedPlain.dataProc _ _ _ _ _)) s
  | eorImmA1 => exact Precise.answer (.bind (quiet_armImm _) fun _ => .of_plain (closedPlain.dataProc _ _ _ _ _)) s
  | eorRegA1 => exact Precise.answer (.of_plain (closedPlain.dataProc _ _ _ _ _)) s
  | orrImmA1 => exact Precise.answer (.bind (quiet_armImm _) fun _ => .of_plain (closedPlain.dataProc _ _ _ _ _)) s
  | orrRegA1 => exact Precise.answer (.of_plain (closedPlain.dataProc _ _ _ _ _)) s
  | rsbImmA1 => exact Precise.answer (.bind (quiet_armImm _) fun _ => .of_plain (closedPlain.dataProc _ _ _ _ _)) s
  | rsbRegA1 => exact Precise.answer (.of_plain (closedPlain.dataProc _ _ _ _ _)) s
  | rscImmA1 => exact Precise.answer (.bind (quiet_armImm _) fun _ => .of_plain (closedPlain.dataProc _ _ _ _ _)) s
  | rscRegA1 => exact Precise.answer (.of_plain (closedPlain.dataProc _ _ _ _ _)) s
  | subImmA1 => exact Precise.answer (.bind (quiet_armImm _) fun _ => .of_plain (closedPlain.dataProc _ _ _ _ _)) s
  | subRegA1 => exact Precise.answer (.of_plain (closedPlain.dataProc _ _ _ _ _)) s
  | teqImmA1 => exact Precise.answer (.bind (quiet_armImm _) fun _ => .of_plain (closedPlain.compare _ _ _)) s
  | teqRegA1 => exact Precise.answer (.of_plain (closedPlain.compare _ _ _)) s
  | tstImmA1 => exact Precise.answer (.bind (quiet_armImm _) fun _ => .of_plain (closedPlain.compare _ _ _)) s
  | tstRegA1 => exact Precise.answer (.of_plain (closedPlain.compare _ _ _)) s
  | mvnImmA1 => exact Precise.answer (.bind (quiet_armImm _) fun _ => .of_plain (closedPlain.dataProc _ _ _ _ _)) s
  | mvnRegA1 => exact Precise.answer (.of_plain (closedPlain.dataProc _ _ _ _ _)) s
  | cmnImmA1 => exact Precise.answer (.bind (quiet_armImm _) fun _ => .of_plain (closedPlain.compare _ _ _)) s
  | cmnRegA1 => exact Precise.answer (.of_plain (closedPlain.compare _ _ _)) s
  | cmpImmA1 => exact Precise.answer (.bind (quiet_armImm _) fun _ => .of_plain (closedPlain.compare _ _ _)) s
  | cmpRegA1 => exact Precise.answer (.of_plain (closedPlain.compare _ _ _)) s
  | asrImmA1 => exact Precise.answer (.of_plain (closedPlain.shiftImm _ _ _ _ _)) s
  | asrRegA1 => exact Precise.answer (.bind (quiet_unpredictableIf _) fun _ => .of_plain (closedPlain.shiftReg _ _ _ _ _)) s
  | lslImmA1 => exact Precise.answer (.of_plain (closedPlain.shiftImm _ _ _ _ _)) s
  | lslRegA1 => exact Precise.answer (.bind (quiet_unpredictableIf _) fun _ => .of_plain (closedPlain.shiftReg _ _ _ _ _)) s
  | lsrImmA1 => exact Precise.answer (.of_plain (closedPlain.shiftImm _ _ _ _ _)) s
  | lsrRegA1 => exact Precise.answer (.bind (quiet_unpredictableIf _) fun _ => .of_plain (closedPlain.shiftReg _ _ _ _ _)) s
  | rrxA1 => exact Precise.answer (.of_plain (closedPlain.shiftImm _ _ _ _ _)) s
  | rorImmA1 => exact Precise.answer (.of_plain (closedPlain.shiftImm _ _ _ _ _)) s
  | rorRegA1 => exact Precise.answer (.bind (quiet_unpredictableIf _) fun _ => .of_plain (closedPlain.shiftReg _ _ _ _ _)) s
  | ldmA1 => exact Precise.answer (.bind (quiet_archVersion) fun _ => .bind (quiet_unpredictableIf _) fun _ => .of_plain (closedPlain.loadMultiple _ _ _ _)) s
  | ldmdaA1 => exact Precise.answer (.bind (quiet_archVersion) fun _ => .bind (quiet_unpredictableIf _) fun _ => .of_plain (closedPlain.loadMultiple _ _ _ _)) s
  | ldmdbA1 => exact Precise.answer (.bind (quiet_archVersion) fun _ => .bind (quiet_unpredictableIf _) fun _ => .of_plain (closedPlain.loadMultiple _ _ _ _)) s
  | ldmibA1 => exact Precise.answer (.bind (quiet_archVersion) fun _ => .bind (quiet_unpredictableIf _) fun _ => .of_plain (closedPlain.loadMultiple _ _ _ _)) s
  | ldrLitA1 => exact Precise.answer (precise_loadSingle _ _ _) s
  | ldrImmA1 => exact Precise.answer (.bind (quiet_notInSubsetIf _) fun _ => .bind (quiet_unpredictableIf _) fun _ => precise_loadSingle _ _ _) s
  | ldrRegA1 => exact Precise.answer (.bind (quiet_notInSubsetIf _) fun _ => .bind (quiet_unpredictableIf _) fun _ => precise_loadSingle _ _ _) s
  | ldrbLitA1 => exact Precise.answer (.bind (quiet_unpredictableIf _) fun _ => precise_loadSingle _ _ _) s
  | ldrbImmA1 => exact Precise.answer (.bind (quiet_notInSubsetIf _) fun _ => .bind (quiet_unpredictableIf _) fun _ => precise_loadSingle _ _ _) s
  | ldrbRegA1 => exact Precise.answer (.bind (quiet_notInSubsetIf _) fun _ => .bind (quiet_unpredictableIf _) fun _ => precise_loadSingle _ _ _) s
  | stmA1 => exact Precise.answer (.bind (quiet_unpredictableIf _) fun _ => .of_plain (closedPlain.storeMultiple _ _ _ _)) s
  | stmdaA1 => exact Precise.answer (.bind (quiet_unpredictableIf _) fun _ => .of_plain (closedPlain.storeMultiple _ _ _ _)) s
  | stmdbA1 => exact Precise.answer (.bind (quiet_unpredictableIf _) fun _ => .of_plain (closedPlain.storeMultiple _ _ _ _)) s
  | stmibA1 => exact Precise.answer (.bind (quiet_unpredictableIf _) fun _ => .of_plain (closedPlain.storeMultiple _ _ _ _)) s
  | strImmA1 => exact Precise.answer (.bind (quiet_notInSubsetIf _) fun _ => .bind (quiet_unpredictableIf _) fun _ => .of_plain (closedPlain.storeSingle _ _ _)) s
  | strRegA1 => exact Precise.answer (.bind (quiet_notInSubsetIf _) fun _ => .bind (quiet_unpredictableIf _) fun _ => .of_plain (closedPlain.storeSingle _ _ _)) s
  | strbImmA1 => exact Precise.answer (.bind (quiet_notInSubsetIf _) fun _ => .bind (quiet_unpredictableIf _) fun _ => .of_plain (closedPlain.storeSingle _ _ _)) s
  | strbRegA1 => exact Precise.answer (.bind (quiet_notInSubsetIf _) fun _ => .bind (quiet_unpredictableIf _) fun _ => .of_plain (closedPlain.storeSingle _ _ _)) s
  | pushT1 => exact Precise.answer (.bind (quiet_unpredictableIf _) fun _ => .of_plain (closedPlain.push _)) s
  | popT1 => exact Precise.answer (.bind (quiet_inITNotLast) fun _ => .bind (quiet_unpredictableIf _) fun _ => .of_plain (closedPlain.pop _)) s
  | addSpImmT1 => exact Precise.answer (.bind (quiet_plainImm _) fun _ => .of_plain (closedPlain.dataProc _ _ _ _ _)) s
  | addSpImmT2 => exact Precise.answer (.bind (quiet_plainImm _) fun _ => .of_plain (closedPlain.dataProc _ _ _ _ _)) s
  | subSpImmT1 => exact Precise.answer (.bind (quiet_plainImm _) fun _ => .of_plain (closedPlain.dataProc _ _ _ _ _)) s
  | svcT1 => exact Precise.answer (.of_plain (closedPlain.supervisorCall _)) s
  | bT1 => exact Precise.answer (.bind (quiet_unpredictableIf _) fun _ => .bind (quiet_unpredictableInIT) fun _ => .of_plain (closedPlain.branchTo _)) s
  | bT2 => exact Precise.answer (.bind (quiet_unpredictableInITNotLast) fun _ => .of_plain (closedPlain.branchTo _)) s
  | blxRegT1 => exact Precise.answer (.bind (quiet_unpredictableIf _) fun _ => .bind (quiet_unpredictableInITNotLast) fun _ => .of_plain (closedPlain.branchLinkExchangeReg _)) s
  | bxT1 => exact Precise.answer (.bind (quiet_unpredictableInITNotLast) fun _ => .of_plain (closedPlain.branchExchange _)) s
  | cbzT1 => exact Precise.answer (.bind (quiet_unpredictableInIT) fun _ => .of_plain (closedPlain.compareBranch _ _ _)) s
  | cbnzT1 => exact Precise.answer (.bind (quiet_unpredictableInIT) fun _ => .of_plain (closedPlain.compareBranch _ _ _)) s
  | itT1 fc m =>
    exact Precise.answer (h := do
      notInSubsetIf (m == 0)
      unpredictableInIT
      match initIT (fc ++ m) with
      | none => throw .unpredictableOperands
      | some x => setIT x)
      (.bind (quiet_notInSubsetIf _) fun _ => .bind quiet_unpredictableInIT fun _ => by
        split
        · exact (Quiet.thrown _).precise
        · intro s f t h
          simp [setIT] at h) s
  | adcRegT1 => exact Precise.answer (.bind (quiet_flagsOutsideIT) fun _ => .of_plain (closedPlain.dataProc _ _ _ _ _)) s
  | addImmT1 => exact Precise.answer (.bind (quiet_plainImm _) fun _ => .bind (quiet_flagsOutsideIT) fun _ => .of_plain (closedPlain.dataProc _ _ _ _ _)) s
  | addImmT2 => exact Precise.answer (.bind (quiet_plainImm _) fun _ => .bind (quiet_flagsOutsideIT) fun _ => .of_plain (closedPlain.dataProc _ _ _ _ _)) s
  | addRegT1 => exact Precise.answer (.bind (quiet_flagsOutsideIT) fun _ => .of_plain (closedPlain.dataProc _ _ _ _ _)) s
  | addRegT2 => exact Precise.answer (.bind (quiet_inITNotLast) fun _ => .bind (quiet_unpredictableIf _) fun _ => .of_plain (closedPlain.dataProc _ _ _ _ _)) s
  | andRegT1 => exact Precise.answer (.bind (quiet_flagsOutsideIT) fun _ => .of_plain (closedPlain.dataProc _ _ _ _ _)) s
  | eorRegT1 => exact Precise.answer (.bind (quiet_flagsOutsideIT) fun _ => .of_plain (closedPlain.dataProc _ _ _ _ _)) s
  | orrRegT1 => exact Precise.answer (.bind (quiet_flagsOutsideIT) fun _ => .of_plain (closedPlain.dataProc _ _ _ _ _)) s
  | mvnRegT1 => exact Precise.answer (.bind (quiet_flagsOutsideIT) fun _ => .of_plain (closedPlain.dataProc _ _ _ _ _)) s
  | rsbImmT1 => exact Precise.answer (.bind (quiet_plainImm _) fun _ => .bind (quiet_flagsOutsideIT) fun _ => .of_plain (closedPlain.dataProc _ _ _ _ _)) s
  | subImmT1 => exact Precise.answer (.bind (quiet_plainImm _) fun _ => .bind (quiet_flagsOutsideIT) fun _ => .of_plain (closedPlain.dataProc _ _ _ _ _)) s
  | subImmT2 => exact Precise.answer (.bind (quiet_plainImm _) fun _ => .bind (quiet_flagsOutsideIT) fun _ => .of_plain (closedPlain.dataProc _ _ _ _ _)) s
  | subRegT1 => exact Precise.answer (.bind (quiet_flagsOutsideIT) fun _ => .of_plain (closedPlain.dataProc _ _ _ _ _)) s
  | cmpImmT1 => exact Precise.answer (.bind (quiet_plainImm _) fun _ => .of_plain (closedPlain.compare _ _ _)) s
  | cmpRegT1 => exact Precise.answer (.of_plain (closedPlain.compare _ _ _)) s
  | cmpRegT2 => exact Precise.answer (.bind (quiet_unpredictableIf _) fun _ => .of_plain (closedPlain.compare _ _ _)) s
  | cmnRegT1 => exact Precise.answer (.of_plain (closedPlain.compare _ _ _)) s
  | tstRegT1 => exact Precise.answer (.of_plain (closedPlain.compare _ _ _)) s
  | asrImmT1 => exact Precise.answer (.bind (quiet_flagsOutsideIT) fun _ => .of_plain (closedPlain.shiftImm _ _ _ _ _)) s
  | asrRegT1 => exact Precise.answer (.bind (quiet_flagsOutsideIT) fun _ => .of_plain (closedPlain.shiftReg _ _ _ _ _)) s
  | lslImmT1 => exact Precise.answer (.bind (quiet_inIT) fun _ => .bind (quiet_unpredictableIf _) fun _ => .bind (quiet_flagsOutsideIT) fun _ => .of_plain (closedPlain.shiftImm _ _ _ _ _)) s
  | lslRegT1 => exact Precise.answer (.bind (quiet_flagsOutsideIT) fun _ => .of_plain (closedPlain.shiftReg _ _ _ _ _)) s
  | lsrImmT1 => exact Precise.answer (.bind (quiet_flagsOutsideIT) fun _ => .of_plain (closedPlain.shiftImm _ _ _ _ _)) s
  | lsrRegT1 => exact Precise.answer (.bind (quiet_flagsOutsideIT) fun _ => .of_plain (closedPlain.shiftReg _ _ _ _ _)) s
  | rorRegT1 => exact Precise.answer (.bind (quiet_flagsOutsideIT) fun _ => .of_plain (closedPlain.shiftReg _ _ _ _ _)) s
  | ldmT1 => exact Precise.answer (.bind (quiet_unpredictableIf _) fun _ => .of_plain (closedPlain.loadMultiple _ _ _ _)) s
  | stmT1 => exact Precise.answer (.bind (quiet_unpredictableIf _) fun _ => .of_plain (closedPlain.storeMultiple _ _ _ _)) s
  | ldrImmT1 => exact Precise.answer (precise_loadSingle _ _ _) s
  | ldrImmT2 => exact Precise.answer (precise_loadSingle _ _ _) s
  | ldrLitT1 => exact Precise.answer (precise_loadSingle _ _ _) s
  | ldrRegT1 => exact Precise.answer (precise_loadSingle _ _ _) s
  | strImmT1 => exact Precise.answer (.of_plain (closedPlain.storeSingle _ _ _)) s
  | strImmT2 => exact Precise.answer (.of_plain (closedPlain.storeSingle _ _ _)) s
  | strRegT1 => exact Precise.answer (.of_plain (closedPlain.storeSingle _ _ _)) s
  | ldrbImmT1 => exact Precise.answer (precise_loadSingle _ _ _) s
  | ldrbRegT1 => exact Precise.answer (precise_loadSingle _ _ _) s
  | strbImmT1 => exact Precise.answer (.of_plain (closedPlain.storeSingle _ _ _)) s
  | strbRegT1 => exact Precise.answer (.of_plain (closedPlain.storeSingle _ _ _)) s
  | pushT2 => exact Precise.answer (.bind (quiet_unpredictableIf _) fun _ => .of_plain (closedPlain.push _)) s
  | pushT3 => exact Precise.answer (.bind (quiet_unpredictableIf _) fun _ => .of_plain (closedPlain.push _)) s
  | popT2 => exact Precise.answer (.bind (quiet_inITNotLast) fun _ => .bind (quiet_unpredictableIf _) fun _ => .of_plain (closedPlain.pop _)) s
  | popT3 => exact Precise.answer (.bind (quiet_inITNotLast) fun _ => .bind (quiet_unpredictableIf _) fun _ => .of_plain (closedPlain.pop _)) s
  | vpushT1 => exact Precise.answer (.bind (quiet_unpredictableIf _) fun _ => .of_plain (closedPlain.vpush _)) s
  | vpushT2 => exact Precise.answer (.bind (quiet_unpredictableIf _) fun _ => .of_plain (closedPlain.vpush _)) s
  | vpopT1 => exact Precise.answer (.bind (quiet_unpredictableIf _) fun _ => .of_plain (closedPlain.vpop _)) s
  | vpopT2 => exact Precise.answer (.bind (quiet_unpredictableIf _) fun _ => .of_plain (closedPlain.vpop _)) s
  | bT3 => exact Precise.answer (.bind (quiet_notInSubsetIf _) fun _ => .bind (quiet_unpredictableInIT) fun _ => .of_plain (closedPlain.branchTo _)) s
  | bT4 => exact Precise.answer (.bind (quiet_unpredictableInITNotLast) fun _ => .of_plain (closedPlain.branchTo _)) s
  | blxImmT2 => exact Precise.answer (.bind (quiet_unpredictableIf _) fun _ => .bind (quiet_unpredictableInITNotLast) fun _ => .of_plain (closedPlain.branchLinkExchange _)) s
  | blImmT1 => exact Precise.answer (.bind (quiet_unpredictableInITNotLast) fun _ => .of_plain (closedPlain.branchLink _)) s
  | tbbT1 => exact Precise.answer (.bind (quiet_unpredictableIf _) fun _ => .bind (quiet_unpredictableInITNotLast) fun _ => .of_plain (closedPlain.tableBranch _ _ _ _)) s
  | tbhT1 => exact Precise.answer (.bind (quiet_unpredictableIf _) fun _ => .bind (quiet_unpredictableInITNotLast) fun _ => .of_plain (closedPlain.tableBranch _ _ _ _)) s
  | cmnImmT1 => exact Precise.answer (.bind (quiet_unpredictableIf _) fun _ => .bind (quiet_thumbImm _ _ _) fun _ => .of_plain (closedPlain.compare _ _ _)) s
  | cmpImmT2 => exact Precise.answer (.bind (quiet_unpredictableIf _) fun _ => .bind (quiet_thumbImm _ _ _) fun _ => .of_plain (closedPlain.compare _ _ _)) s
  | tstImmT1 => exact Precise.answer (.bind (quiet_unpredictableIf _) fun _ => .bind (quiet_thumbImm _ _ _) fun _ => .of_plain (closedPlain.compare _ _ _)) s
  | teqImmT1 => exact Precise.answer (.bind (quiet_unpredictableIf _) fun _ => .bind (quiet_thumbImm _ _ _) fun _ => .of_plain (closedPlain.compare _ _ _)) s
  | cmnRegT2 => exact Precise.answer (.bind (quiet_unpredictableIf _) fun _ => .of_plain (closedPlain.compare _ _ _)) s
  | cmpRegT3 => exact Precise.answer (.bind (quiet_unpredictableIf _) fun _ => .of_plain (closedPlain.compare _ _ _)) s
  | tstRegT2 => exact Precise.answer (.bind (quiet_unpredictableIf _) fun _ => .of_plain (closedPlain.compare _ _ _)) s
  | teqRegT1 => exact Precise.answer (.bind (quiet_unpredictableIf _) fun _ => .of_plain (closedPlain.compare _ _ _)) s
  | adcImmT1 => exact Precise.answer (.bind (quiet_unpredictableIf _) fun _ => .bind (quiet_thumbImm _ _ _) fun _ => .of_plain (closedPlain.dataProc _ _ _ _ _)) s
  | adcRegT2 => exact Precise.answer (.bind (quiet_unpredictableIf _) fun _ => .of_plain (closedPlain.dataProc _ _ _ _ _)) s
  | addImmT3 => exact Precise.answer (.bind (quiet_unpredictableIf _) fun _ => .bind (quiet_thumbImm _ _ _) fun _ => .of_plain (closedPlain.dataProc _ _ _ _ _)) s
  | addImmT4 => exact Precise.answer (.bind (quiet_notInSubsetIf _) fun _ => .bind (quiet_unpredictableIf _) fun _ => .bind (quiet_plainImm _) fun _ => .of_plain (closedPlain.dataProc _ _ _ _ _)) s
  | addRegT3 => exact Precise.answer (.bind (quiet_unpredictableIf _) fun _ => .of_plain (closedPlain.dataProc _ _ _ _ _)) s
  | andImmT1 => exact Precise.answer (.bind (quiet_unpredictableIf _) fun _ => .bind (quiet_thumbImm _ _ _) fun _ => .of_plain (closedPlain.dataProc _ _ _ _ _)) s
  | andRegT2 => exact Precise.answer (.bind (quiet_unpredictableIf _) fun _ => .of_plain (closedPlain.dataProc _ _ _ _ _)) s
  | eorImmT1 => exact Precise.answer (.bind (quiet_unpredictableIf _) fun _ => .bind (quiet_thumbImm _ _ _) fun _ => .of_plain (closedPlain.dataProc _ _ _ _ _)) s
  | eorRegT2 => exact Precise.answer (.bind (quiet_unpredictableIf _) fun _ => .of_plain (closedPlain.dataProc _ _ _ _ _)) s
  | mvnImmT1 => exact Precise.answer (.bind (quiet_unpredictableIf _) fun _ => .bind (quiet_thumbImm _ _ _) fun _ => .of_plain (closedPlain.dataProc _ _ _ _ _)) s
  | mvnRegT2 => exact Precise.answer (.bind (quiet_unpredictableIf _) fun _ => .of_plain (closedPlain.dataProc _ _ _ _ _)) s
  | lslImmT2 => exact Precise.answer (.bind (quiet_unpredictableIf _) fun _ => .of_plain (closedPlain.shiftImm _ _ _ _ _)) s
  | lsrImmT2 => exact Precise.answer (.bind (quiet_unpredictableIf _) fun _ => .of_plain (closedPlain.shiftImm _ _ _ _ _)) s
  | asrImmT2 => exact Precise.answer (.bind (quiet_unpredictableIf _) fun _ => .of_plain (closedPlain.shiftImm _ _ _ _ _)) s
  | rrxT1 => exact Precise.answer (.bind (quiet_unpredictableIf _) fun _ => .of_plain (closedPlain.shiftImm _ _ _ _ _)) s
  | rorImmT1 => exact Precise.answer (.bind (quiet_unpredictableIf _) fun _ => .of_plain (closedPlain.shiftImm _ _ _ _ _)) s
  | orrImmT1 => exact Precise.answer (.bind (quiet_notInSubsetIf _) fun _ => .bind (quiet_unpredictableIf _) fun _ => .bind (quiet_thumbImm _ _ _) fun _ => .of_plain (closedPlain.dataProc _ _ _ _ _)) s
  | orrRegT2 => exact Precise.answer (.bind (quiet_notInSubsetIf _) fun _ => .bind (quiet_unpredictableIf _) fun _ => .of_plain (closedPlain.dataProc _ _ _ _ _)) s
  | rsbImmT2 => exact Precise.answer (.bind (quiet_unpredictableIf _) fun _ => .bind (quiet_thumbImm _ _ _) fun _ => .of_plain (closedPlain.dataProc _ _ _ _ _)) s
  | rsbRegT1 => exact Precise.answer (.bind (quiet_unpredictableIf _) fun _ => .of_plain (closedPlain.dataProc _ _ _ _ _)) s
  | subImmT3 => exact Precise.answer (.bind (quiet_unpredictableIf _) fun _ => .bind (quiet_thumbImm _ _ _) fun _ => .of_plain (closedPlain.dataProc _ _ _ _ _)) s
  | subImmT4 => exact Precise.answer (.bind (quiet_notInSubsetIf _) fun _ => .bind (quiet_unpredictableIf _) fun _ => .bind (quiet_plainImm _) fun _ => .of_plain (closedPlain.dataProc _ _ _ _ _)) s
  | subRegT2 => exact Precise.answer (.bind (quiet_unpredictableIf _) fun _ => .of_plain (closedPlain.dataProc _ _ _ _ _)) s
  | asrRegT2 => exact Precise.answer (.bind (quiet_unpredictableIf _) fun _ => .of_plain (closedPlain.shiftReg _ _ _ _ _)) s
  | lslRegT2 => exact Precise.answer (.bind (quiet_unpredictableIf _) fun _ => .of_plain (closedPlain.shiftReg _ _ _ _ _)) s
  | lsrRegT2 => exact Precise.answer (.bind (quiet_unpredictableIf _) fun _ => .of_plain (closedPlain.shiftReg _ _ _ _ _)) s
  | rorRegT2 => exact Precise.answer (.bind (quiet_unpredictableIf _) fun _ => .of_plain (closedPlain.shiftReg _ _ _ _ _)) s
  | ldmT2 => exact Precise.answer (.bind (quiet_inITNotLast) fun _ => .bind (quiet_unpredictableIf _) fun _ => .of_plain (closedPlain.loadMultiple _ _ _ _)) s
  | ldmdbT1 => exact Precise.answer (.bind (quiet_inITNotLast) fun _ => .bind (quiet_unpredictableIf _) fun _ => .of_plain (closedPlain.loadMultiple _ _ _ _)) s
  | stmT2 => exact Precise.answer (.bind (quiet_unpredictableIf _) fun _ => .of_plain (closedPlain.storeMultiple _ _ _ _)) s
  | stmdbT1 => exact Precise.answer (.bind (quiet_unpredictableIf _) fun _ => .of_plain (closedPlain.storeMultiple _ _ _ _)) s
  | ldrLitT2 => exact Precise.answer (.bind (quiet_inITNotLast) fun _ => .bind (quiet_unpredictableIf _) fun _ => precise_loadSingle _ _ _) s
  | ldrImmT3 => exact Precise.answer (.bind (quiet_inITNotLast) fun _ => .bind (quiet_unpredictableIf _) fun _ => precise_loadSingle _ _ _) s
  | ldrImmT4 => exact Precise.answer (.bind (quiet_notInSubsetIf _) fun _ => .bind (quiet_inITNotLast) fun _ => .bind (quiet_unpredictableIf _) fun _ => precise_loadSingle _ _ _) s
  | ldrRegT2 => exact Precise.answer (.bind (quiet_inITNotLast) fun _ => .bind (quiet_unpredictableIf _) fun _ => precise_loadSingle _ _ _) s
  | ldrbLitT1 => exact Precise.answer (.bind (quiet_notInSubsetIf _) fun _ => .bind (quiet_unpredictableIf _) fun _ => precise_loadSingle _ _ _) s
  | ldrbImmT2 => exact Precise.answer (.bind (quiet_notInSubsetIf _) fun _ => .bind (quiet_unpredictableIf _) fun _ => precise_loadSingle _ _ _) s
  | ldrbImmT3 => exact Precise.answer (.bind (quiet_notInSubsetIf _) fun _ => .bind (quiet_unpredictableIf _) fun _ => precise_loadSingle _ _ _) s
  | ldrbRegT2 => exact Precise.answer (.bind (quiet_notInSubsetIf _) fun _ => .bind (quiet_unpredictableIf _) fun _ => precise_loadSingle _ _ _) s
  | strImmT3 => exact Precise.answer (.bind (quiet_unpredictableIf _) fun _ => .of_plain (closedPlain.storeSingle _ _ _)) s
  | strImmT4 => exact Precise.answer (.bind (quiet_notInSubsetIf _) fun _ => .bind (quiet_unpredictableIf _) fun _ => .of_plain (closedPlain.storeSingle _ _ _)) s
  | strRegT2 => exact Precise.answer (.bind (quiet_unpredictableIf _) fun _ => .of_plain (closedPlain.storeSingle _ _ _)) s
  | strbImmT2 => exact Precise.answer (.bind (quiet_unpredictableIf _) fun _ => .of_plain (closedPlain.storeSingle _ _ _)) s
  | strbImmT3 => exact Precise.answer (.bind (quiet_notInSubsetIf _) fun _ => .bind (quiet_unpredictableIf _) fun _ => .of_plain (closedPlain.storeSingle _ _ _)) s
  | strbRegT2 => exact Precise.answer (.bind (quiet_unpredictableIf _) fun _ => .of_plain (closedPlain.storeSingle _ _ _)) s

end Sys2Proof.Machine
end

