-- ==== Sys2Proof/Laws/Encoding.lean ====
section
/-! SUPPORT. Fields placed in a word and read back: the algebra of `fld`, `place` and `flag`, by which the encoder and the
decoder of a row are compared field by field. -/

namespace Sys2Proof

theorem fld_or (x y : Word) (lo n : Nat) : fld (x ||| y) lo n = fld x lo n ||| fld y lo n := by
  apply BitVec.eq_of_getLsbD_eq
  intro i hi
  simp [fld, hi]

theorem getLsbD_place {n : Nat} (x : BitVec n) (lo k : Nat) (hk : k < 32) :
    (place x lo).getLsbD k = (decide (lo ≤ k) && x.getLsbD (k - lo)) := by
  unfold place
  rw [BitVec.getLsbD_shiftLeft, BitVec.getLsbD_setWidth]
  by_cases h : k < lo
  · have : ¬ lo ≤ k := by omega
    simp [h, this]
  · have h1 : lo ≤ k := by omega
    have h2 : k - lo < 32 := by omega
    simp [h, hk, h1, h2]

/-- A field reads back from where it was placed. -/
theorem fld_place_same {n : Nat} (x : BitVec n) (lo : Nat) (h : lo + n ≤ 32) : fld (place x lo) lo n = x := by
  apply BitVec.eq_of_getLsbD_eq
  intro i hi
  rw [fld, BitVec.getLsbD_extractLsb', getLsbD_place x lo (lo + i) (by omega)]
  simp [hi]

/-- A field placed elsewhere reads as zero. -/
theorem fld_place_other {m : Nat} (x : BitVec m) (lo lo' n : Nat) (h : lo + n ≤ 32) (hd : lo' + m ≤ lo ∨ lo + n ≤ lo') :
    fld (place x lo') lo n = 0 := by
  apply BitVec.eq_of_getLsbD_eq
  intro i hi
  rw [fld, BitVec.getLsbD_extractLsb', getLsbD_place x lo' (lo + i) (by omega)]
  rcases hd with hd | hd
  · rw [BitVec.getLsbD_of_ge x (lo + i - lo') (by omega)]
    simp
  · have : ¬ lo' ≤ lo + i := by omega
    simp [this]

theorem getLsbD_place_other {m : Nat} (x : BitVec m) (lo' k : Nat) (h : k < 32) (hd : lo' + m ≤ k ∨ k < lo') :
    (place x lo').getLsbD k = false := by
  rw [getLsbD_place x lo' k h]
  rcases hd with hd | hd
  · rw [BitVec.getLsbD_of_ge x (k - lo') (by omega)]
    simp
  · have : ¬ lo' ≤ k := by omega
    simp [this]

theorem getLsbD_flag_same (b : Bool) (lo : Nat) (h : lo < 32) : (flag b lo).getLsbD lo = b := by
  unfold flag
  rw [getLsbD_place _ _ _ h]
  cases b <;> simp

theorem getLsbD_flag_other (b : Bool) (lo k : Nat) (h : k < 32) (hd : lo ≠ k) : (flag b lo).getLsbD k = false :=
  getLsbD_place_other _ _ _ h (by omega)

theorem fld_flag_other (b : Bool) (lo lo' n : Nat) (h : lo + n ≤ 32) (hd : lo' + 1 ≤ lo ∨ lo + n ≤ lo') :
    fld (flag b lo') lo n = 0 := fld_place_other _ _ _ _ h hd

theorem or_and_mask (x y m : Word) : (x ||| y) &&& m = x &&& m ||| y &&& m := by
  apply BitVec.eq_of_getLsbD_eq
  intro i hi
  simp [Bool.and_or_distrib_right]

/-- A field outside a mask does not touch the masked bits. -/
theorem place_and_mask {n : Nat} (x : BitVec n) (lo : Nat) (m : Word) (h : fld m lo n = 0) : place x lo &&& m = 0 := by
  apply BitVec.eq_of_getLsbD_eq
  intro i hi
  rw [BitVec.getLsbD_and, getLsbD_place x lo i hi]
  by_cases hl : lo ≤ i
  · by_cases hn : i - lo < n
    · have := congrArg (fun b => b.getLsbD (i - lo)) h
      simp only [fld, BitVec.getLsbD_extractLsb', hn, decide_true, Bool.true_and] at this
      rw [show lo + (i - lo) = i by omega] at this
      simp [this]
    · rw [BitVec.getLsbD_of_ge x (i - lo) (by omega)]
      simp
  · simp [hl]

theorem flag_and_mask (b : Bool) (lo : Nat) (m : Word) (h : fld m lo 1 = 0) : flag b lo &&& m = 0 := place_and_mask _ _ _ h

theorem zero_or_word (x : Word) : (0 : Word) ||| x = x := by simp
theorem or_zero_bits {n : Nat} (x : BitVec n) : x ||| 0 = x := by simp
theorem zero_or_bits {n : Nat} (x : BitVec n) : (0 : BitVec n) ||| x = x := by simp

/-- A field under a mask that a word does not meet is zero in the word. -/
theorem fld_of_and {v m : Word} {lo n : Nat} (h : v &&& m = 0) (hm : fld m lo n = BitVec.allOnes n) :
    fld v lo n = 0 := by
  apply BitVec.eq_of_getLsbD_eq
  intro i hi
  have h1 := congrArg (fun b => b.getLsbD (lo + i)) h
  have h2 := congrArg (fun b => b.getLsbD i) hm
  simp only [fld, BitVec.getLsbD_extractLsb', hi, decide_true, Bool.true_and, BitVec.getLsbD_allOnes] at h2
  simp only [BitVec.getLsbD_and, h2, Bool.and_true] at h1
  simpa [fld, hi] using h1

theorem getLsbD_of_and {v m : Word} {k : Nat} (h : v &&& m = 0) (hm : m.getLsbD k = true) : v.getLsbD k = false := by
  have h1 := congrArg (fun b => b.getLsbD k) h
  simpa [hm] using h1

/-! ## The formats (30_encoding.md rules R102 to R104): each reads back what it wrote, and meets its row's pattern

The constant of each lemma is the set of bits that the format's fields take. -/

theorem encAReglist_reads (k : BitVec 4 → BitVec 16 → Instr) {value : Word} (hv : value &&& 0xf000ffff = 0) (cond : BitVec 4) (regs : BitVec 16) :
    decAReglist k (encAReglist value cond regs) = k cond regs := by
  have z0 : fld value 28 4 = 0 := fld_of_and hv rfl
  have z1 : fld value 0 16 = 0 := fld_of_and hv rfl
  simp (disch := omega) only [decAReglist, encAReglist, fld_or, fld_place_same, zero_or_bits, or_zero_bits, fld_place_other, z0, z1]

theorem encAReglist_hits {value rowMask : Word} (hv : value &&& rowMask = value) (hm : rowMask &&& 0xf000ffff = 0) (cond : BitVec 4) (regs : BitVec 16) :
    encAReglist value cond regs &&& rowMask = value := by
  have z0 : place cond 28 &&& rowMask = 0 := place_and_mask _ _ _ (fld_of_and hm rfl)
  have z1 : place regs 0 &&& rowMask = 0 := place_and_mask _ _ _ (fld_of_and hm rfl)
  simp only [encAReglist, or_and_mask, hv, or_zero_bits, z0, z1]

theorem encARt_reads (k : BitVec 4 → BitVec 4 → Instr) {value : Word} (hv : value &&& 0xf000f000 = 0) (cond : BitVec 4) (rt : BitVec 4) :
    decARt k (encARt value cond rt) = k cond rt := by
  have z0 : fld value 28 4 = 0 := fld_of_and hv rfl
  have z1 : fld value 12 4 = 0 := fld_of_and hv rfl
  simp (disch := omega) only [decARt, encARt, fld_or, fld_place_same, zero_or_bits, or_zero_bits, fld_place_other, z0, z1]

theorem encARt_hits {value rowMask : Word} (hv : value &&& rowMask = value) (hm : rowMask &&& 0xf000f000 = 0) (cond : BitVec 4) (rt : BitVec 4) :
    encARt value cond rt &&& rowMask = value := by
  have z0 : place cond 28 &&& rowMask = 0 := place_and_mask _ _ _ (fld_of_and hm rfl)
  have z1 : place rt 12 &&& rowMask = 0 := place_and_mask _ _ _ (fld_of_and hm rfl)
  simp only [encARt, or_and_mask, hv, or_zero_bits, z0, z1]

theorem encAVlist_reads (k : BitVec 4 → BitVec 1 → BitVec 4 → BitVec 8 → Instr) {value : Word} (hv : value &&& 0xf040f0ff = 0) (cond : BitVec 4) (dbit : BitVec 1) (vd : BitVec 4) (imm8 : BitVec 8) :
    decAVlist k (encAVlist value cond dbit vd imm8) = k cond dbit vd imm8 := by
  have z0 : fld value 28 4 = 0 := fld_of_and hv rfl
  have z1 : fld value 22 1 = 0 := fld_of_and hv rfl
  have z2 : fld value 12 4 = 0 := fld_of_and hv rfl
  have z3 : fld value 0 8 = 0 := fld_of_and hv rfl
  simp (disch := omega) only [decAVlist, encAVlist, fld_or, fld_place_same, zero_or_bits, or_zero_bits, fld_place_other, z0, z1, z2, z3]

theorem encAVlist_hits {value rowMask : Word} (hv : value &&& rowMask = value) (hm : rowMask &&& 0xf040f0ff = 0) (cond : BitVec 4) (dbit : BitVec 1) (vd : BitVec 4) (imm8 : BitVec 8) :
    encAVlist value cond dbit vd imm8 &&& rowMask = value := by
  have z0 : place cond 28 &&& rowMask = 0 := place_and_mask _ _ _ (fld_of_and hm rfl)
  have z1 : place dbit 22 &&& rowMask = 0 := place_and_mask _ _ _ (fld_of_and hm rfl)
  have z2 : place vd 12 &&& rowMask = 0 := place_and_mask _ _ _ (fld_of_and hm rfl)
  have z3 : place imm8 0 &&& rowMask = 0 := place_and_mask _ _ _ (fld_of_and hm rfl)
  simp only [encAVlist, or_and_mask, hv, or_zero_bits, z0, z1, z2, z3]

theorem encAImm24_reads (k : BitVec 4 → BitVec 24 → Instr) {value : Word} (hv : value &&& 0xf0ffffff = 0) (cond : BitVec 4) (imm24 : BitVec 24) :
    decAImm24 k (encAImm24 value cond imm24) = k cond imm24 := by
  have z0 : fld value 28 4 = 0 := fld_of_and hv rfl
  have z1 : fld value 0 24 = 0 := fld_of_and hv rfl
  simp (disch := omega) only [decAImm24, encAImm24, fld_or, fld_place_same, zero_or_bits, or_zero_bits, fld_place_other, z0, z1]

theorem encAImm24_hits {value rowMask : Word} (hv : value &&& rowMask = value) (hm : rowMask &&& 0xf0ffffff = 0) (cond : BitVec 4) (imm24 : BitVec 24) :
    encAImm24 value cond imm24 &&& rowMask = value := by
  have z0 : place cond 28 &&& rowMask = 0 := place_and_mask _ _ _ (fld_of_and hm rfl)
  have z1 : place imm24 0 &&& rowMask = 0 := place_and_mask _ _ _ (fld_of_and hm rfl)
  simp only [encAImm24, or_and_mask, hv, or_zero_bits, z0, z1]

theorem encABlx_reads (k : BitVec 1 → BitVec 24 → Instr) {value : Word} (hv : value &&& 0x01ffffff = 0) (h : BitVec 1) (imm24 : BitVec 24) :
    decABlx k (encABlx value h imm24) = k h imm24 := by
  have z0 : fld value 24 1 = 0 := fld_of_and hv rfl
  have z1 : fld value 0 24 = 0 := fld_of_and hv rfl
  simp (disch := omega) only [decABlx, encABlx, fld_or, fld_place_same, zero_or_bits, or_zero_bits, fld_place_other, z0, z1]

theorem encABlx_hits {value rowMask : Word} (hv : value &&& rowMask = value) (hm : rowMask &&& 0x01ffffff = 0) (h : BitVec 1) (imm24 : BitVec 24) :
    encABlx value h imm24 &&& rowMask = value := by
  have z0 : place h 24 &&& rowMask = 0 := place_and_mask _ _ _ (fld_of_and hm rfl)
  have z1 : place imm24 0 &&& rowMask = 0 := place_and_mask _ _ _ (fld_of_and hm rfl)
  simp only [encABlx, or_and_mask, hv, or_zero_bits, z0, z1]

theorem encARm_reads (k : BitVec 4 → BitVec 4 → Instr) {value : Word} (hv : value &&& 0xf000000f = 0) (cond : BitVec 4) (rm : BitVec 4) :
    decARm k (encARm value cond rm) = k cond rm := by
  have z0 : fld value 28 4 = 0 := fld_of_and hv rfl
  have z1 : fld value 0 4 = 0 := fld_of_and hv rfl
  simp (disch := omega) only [decARm, encARm, fld_or, fld_place_same, zero_or_bits, or_zero_bits, fld_place_other, z0, z1]

theorem encARm_hits {value rowMask : Word} (hv : value &&& rowMask = value) (hm : rowMask &&& 0xf000000f = 0) (cond : BitVec 4) (rm : BitVec 4) :
    encARm value cond rm &&& rowMask = value := by
  have z0 : place cond 28 &&& rowMask = 0 := place_and_mask _ _ _ (fld_of_and hm rfl)
  have z1 : place rm 0 &&& rowMask = 0 := place_and_mask _ _ _ (fld_of_and hm rfl)
  simp only [encARm, or_and_mask, hv, or_zero_bits, z0, z1]

theorem encADpImm_reads (k : BitVec 4 → Bool → BitVec 4 → BitVec 4 → BitVec 12 → Instr) {value : Word} (hv : value &&& 0xf01fffff = 0) (cond : BitVec 4) (setS : Bool) (rn : BitVec 4) (rd : BitVec 4) (imm12 : BitVec 12) :
    decADpImm k (encADpImm value cond setS rn rd imm12) = k cond setS rn rd imm12 := by
  have z0 : fld value 28 4 = 0 := fld_of_and hv rfl
  have z1 : value.getLsbD 20 = false := getLsbD_of_and hv rfl
  have z2 : fld value 16 4 = 0 := fld_of_and hv rfl
  have z3 : fld value 12 4 = 0 := fld_of_and hv rfl
  have z4 : fld value 0 12 = 0 := fld_of_and hv rfl
  simp (disch := omega) only [decADpImm, encADpImm, fld_or, fld_place_same, zero_or_bits, or_zero_bits, fld_place_other, fld_flag_other, BitVec.getLsbD_or, getLsbD_flag_same, Bool.false_or, Bool.or_false, getLsbD_place_other, z0, z1, z2, z3, z4]

theorem encADpImm_hits {value rowMask : Word} (hv : value &&& rowMask = value) (hm : rowMask &&& 0xf01fffff = 0) (cond : BitVec 4) (setS : Bool) (rn : BitVec 4) (rd : BitVec 4) (imm12 : BitVec 12) :
    encADpImm value cond setS rn rd imm12 &&& rowMask = value := by
  have z0 : place cond 28 &&& rowMask = 0 := place_and_mask _ _ _ (fld_of_and hm rfl)
  have z1 : flag setS 20 &&& rowMask = 0 := flag_and_mask _ _ _ (fld_of_and hm rfl)
  have z2 : place rn 16 &&& rowMask = 0 := place_and_mask _ _ _ (fld_of_and hm rfl)
  have z3 : place rd 12 &&& rowMask = 0 := place_and_mask _ _ _ (fld_of_and hm rfl)
  have z4 : place imm12 0 &&& rowMask = 0 := place_and_mask _ _ _ (fld_of_and hm rfl)
  simp only [encADpImm, or_and_mask, hv, or_zero_bits, z0, z1, z2, z3, z4]

theorem encADpReg_reads (k : BitVec 4 → Bool → BitVec 4 → BitVec 4 → BitVec 5 → BitVec 2 → BitVec 4 → Instr) {value : Word} (hv : value &&& 0xf01fffef = 0) (cond : BitVec 4) (setS : Bool) (rn : BitVec 4) (rd : BitVec 4) (imm5 : BitVec 5) (ty : BitVec 2) (rm : BitVec 4) :
    decADpReg k (encADpReg value cond setS rn rd imm5 ty rm) = k cond setS rn rd imm5 ty rm := by
  have z0 : fld value 28 4 = 0 := fld_of_and hv rfl
  have z1 : value.getLsbD 20 = false := getLsbD_of_and hv rfl
  have z2 : fld value 16 4 = 0 := fld_of_and hv rfl
  have z3 : fld value 12 4 = 0 := fld_of_and hv rfl
  have z4 : fld value 7 5 = 0 := fld_of_and hv rfl
  have z5 : fld value 5 2 = 0 := fld_of_and hv rfl
  have z6 : fld value 0 4 = 0 := fld_of_and hv rfl
  simp (disch := omega) only [decADpReg, encADpReg, fld_or, fld_place_same, zero_or_bits, or_zero_bits, fld_place_other, fld_flag_other, BitVec.getLsbD_or, getLsbD_flag_same, Bool.false_or, Bool.or_false, getLsbD_place_other, z0, z1, z2, z3, z4, z5, z6]

theorem encADpReg_hits {value rowMask : Word} (hv : value &&& rowMask = value) (hm : rowMask &&& 0xf01fffef = 0) (cond : BitVec 4) (setS : Bool) (rn : BitVec 4) (rd : BitVec 4) (imm5 : BitVec 5) (ty : BitVec 2) (rm : BitVec 4) :
    encADpReg value cond setS rn rd imm5 ty rm &&& rowMask = value := by
  have z0 : place cond 28 &&& rowMask = 0 := place_and_mask _ _ _ (fld_of_and hm rfl)
  have z1 : flag setS 20 &&& rowMask = 0 := flag_and_mask _ _ _ (fld_of_and hm rfl)
  have z2 : place rn 16 &&& rowMask = 0 := place_and_mask _ _ _ (fld_of_and hm rfl)
  have z3 : place rd 12 &&& rowMask = 0 := place_and_mask _ _ _ (fld_of_and hm rfl)
  have z4 : place imm5 7 &&& rowMask = 0 := place_and_mask _ _ _ (fld_of_and hm rfl)
  have z5 : place ty 5 &&& rowMask = 0 := place_and_mask _ _ _ (fld_of_and hm rfl)
  have z6 : place rm 0 &&& rowMask = 0 := place_and_mask _ _ _ (fld_of_and hm rfl)
  simp only [encADpReg, or_and_mask, hv, or_zero_bits, z0, z1, z2, z3, z4, z5, z6]

theorem encACmpImm_reads (k : BitVec 4 → BitVec 4 → BitVec 12 → Instr) {value : Word} (hv : value &&& 0xf00f0fff = 0) (cond : BitVec 4) (rn : BitVec 4) (imm12 : BitVec 12) :
    decACmpImm k (encACmpImm value cond rn imm12) = k cond rn imm12 := by
  have z0 : fld value 28 4 = 0 := fld_of_and hv rfl
  have z1 : fld value 16 4 = 0 := fld_of_and hv rfl
  have z2 : fld value 0 12 = 0 := fld_of_and hv rfl
  simp (disch := omega) only [decACmpImm, encACmpImm, fld_or, fld_place_same, zero_or_bits, or_zero_bits, fld_place_other, z0, z1, z2]

theorem encACmpImm_hits {value rowMask : Word} (hv : value &&& rowMask = value) (hm : rowMask &&& 0xf00f0fff = 0) (cond : BitVec 4) (rn : BitVec 4) (imm12 : BitVec 12) :
    encACmpImm value cond rn imm12 &&& rowMask = value := by
  have z0 : place cond 28 &&& rowMask = 0 := place_and_mask _ _ _ (fld_of_and hm rfl)
  have z1 : place rn 16 &&& rowMask = 0 := place_and_mask _ _ _ (fld_of_and hm rfl)
  have z2 : place imm12 0 &&& rowMask = 0 := place_and_mask _ _ _ (fld_of_and hm rfl)
  simp only [encACmpImm, or_and_mask, hv, or_zero_bits, z0, z1, z2]

theorem encACmpReg_reads (k : BitVec 4 → BitVec 4 → BitVec 5 → BitVec 2 → BitVec 4 → Instr) {value : Word} (hv : value &&& 0xf00f0fef = 0) (cond : BitVec 4) (rn : BitVec 4) (imm5 : BitVec 5) (ty : BitVec 2) (rm : BitVec 4) :
    decACmpReg k (encACmpReg value cond rn imm5 ty rm) = k cond rn imm5 ty rm := by
  have z0 : fld value 28 4 = 0 := fld_of_and hv rfl
  have z1 : fld value 16 4 = 0 := fld_of_and hv rfl
  have z2 : fld value 7 5 = 0 := fld_of_and hv rfl
  have z3 : fld value 5 2 = 0 := fld_of_and hv rfl
  have z4 : fld value 0 4 = 0 := fld_of_and hv rfl
  simp (disch := omega) only [decACmpReg, encACmpReg, fld_or, fld_place_same, zero_or_bits, or_zero_bits, fld_place_other, z0, z1, z2, z3, z4]

theorem encACmpReg_hits {value rowMask : Word} (hv : value &&& rowMask = value) (hm : rowMask &&& 0xf00f0fef = 0) (cond : BitVec 4) (rn : BitVec 4) (imm5 : BitVec 5) (ty : BitVec 2) (rm : BitVec 4) :
    encACmpReg value cond rn imm5 ty rm &&& rowMask = value := by
  have z0 : place cond 28 &&& rowMask = 0 := place_and_mask _ _ _ (fld_of_and hm rfl)
  have z1 : place rn 16 &&& rowMask = 0 := place_and_mask _ _ _ (fld_of_and hm rfl)
  have z2 : place imm5 7 &&& rowMask = 0 := place_and_mask _ _ _ (fld_of_and hm rfl)
  have z3 : place ty 5 &&& rowMask = 0 := place_and_mask _ _ _ (fld_of_and hm rfl)
  have z4 : place rm 0 &&& rowMask = 0 := place_and_mask _ _ _ (fld_of_and hm rfl)
  simp only [encACmpReg, or_and_mask, hv, or_zero_bits, z0, z1, z2, z3, z4]

theorem encAMvnImm_reads (k : BitVec 4 → Bool → BitVec 4 → BitVec 12 → Instr) {value : Word} (hv : value &&& 0xf010ffff = 0) (cond : BitVec 4) (setS : Bool) (rd : BitVec 4) (imm12 : BitVec 12) :
    decAMvnImm k (encAMvnImm value cond setS rd imm12) = k cond setS rd imm12 := by
  have z0 : fld value 28 4 = 0 := fld_of_and hv rfl
  have z1 : value.getLsbD 20 = false := getLsbD_of_and hv rfl
  have z2 : fld value 12 4 = 0 := fld_of_and hv rfl
  have z3 : fld value 0 12 = 0 := fld_of_and hv rfl
  simp (disch := omega) only [decAMvnImm, encAMvnImm, fld_or, fld_place_same, zero_or_bits, or_zero_bits, fld_place_other, fld_flag_other, BitVec.getLsbD_or, getLsbD_flag_same, Bool.false_or, Bool.or_false, getLsbD_place_other, z0, z1, z2, z3]

theorem encAMvnImm_hits {value rowMask : Word} (hv : value &&& rowMask = value) (hm : rowMask &&& 0xf010ffff = 0) (cond : BitVec 4) (setS : Bool) (rd : BitVec 4) (imm12 : BitVec 12) :
    encAMvnImm value cond setS rd imm12 &&& rowMask = value := by
  have z0 : place cond 28 &&& rowMask = 0 := place_and_mask _ _ _ (fld_of_and hm rfl)
  have z1 : flag setS 20 &&& rowMask = 0 := flag_and_mask _ _ _ (fld_of_and hm rfl)
  have z2 : place rd 12 &&& rowMask = 0 := place_and_mask _ _ _ (fld_of_and hm rfl)
  have z3 : place imm12 0 &&& rowMask = 0 := place_and_mask _ _ _ (fld_of_and hm rfl)
  simp only [encAMvnImm, or_and_mask, hv, or_zero_bits, z0, z1, z2, z3]

theorem encAMvnReg_reads (k : BitVec 4 → Bool → BitVec 4 → BitVec 5 → BitVec 2 → BitVec 4 → Instr) {value : Word} (hv : value &&& 0xf010ffef = 0) (cond : BitVec 4) (setS : Bool) (rd : BitVec 4) (imm5 : BitVec 5) (ty : BitVec 2) (rm : BitVec 4) :
    decAMvnReg k (encAMvnReg value cond setS rd imm5 ty rm) = k cond setS rd imm5 ty rm := by
  have z0 : fld value 28 4 = 0 := fld_of_and hv rfl
  have z1 : value.getLsbD 20 = false := getLsbD_of_and hv rfl
  have z2 : fld value 12 4 = 0 := fld_of_and hv rfl
  have z3 : fld value 7 5 = 0 := fld_of_and hv rfl
  have z4 : fld value 5 2 = 0 := fld_of_and hv rfl
  have z5 : fld value 0 4 = 0 := fld_of_and hv rfl
  simp (disch := omega) only [decAMvnReg, encAMvnReg, fld_or, fld_place_same, zero_or_bits, or_zero_bits, fld_place_other, fld_flag_other, BitVec.getLsbD_or, getLsbD_flag_same, Bool.false_or, Bool.or_false, getLsbD_place_other, z0, z1, z2, z3, z4, z5]

theorem encAMvnReg_hits {value rowMask : Word} (hv : value &&& rowMask = value) (hm : rowMask &&& 0xf010ffef = 0) (cond : BitVec 4) (setS : Bool) (rd : BitVec 4) (imm5 : BitVec 5) (ty : BitVec 2) (rm : BitVec 4) :
    encAMvnReg value cond setS rd imm5 ty rm &&& rowMask = value := by
  have z0 : place cond 28 &&& rowMask = 0 := place_and_mask _ _ _ (fld_of_and hm rfl)
  have z1 : flag setS 20 &&& rowMask = 0 := flag_and_mask _ _ _ (fld_of_and hm rfl)
  have z2 : place rd 12 &&& rowMask = 0 := place_and_mask _ _ _ (fld_of_and hm rfl)
  have z3 : place imm5 7 &&& rowMask = 0 := place_and_mask _ _ _ (fld_of_and hm rfl)
  have z4 : place ty 5 &&& rowMask = 0 := place_and_mask _ _ _ (fld_of_and hm rfl)
  have z5 : place rm 0 &&& rowMask = 0 := place_and_mask _ _ _ (fld_of_and hm rfl)
  simp only [encAMvnReg, or_and_mask, hv, or_zero_bits, z0, z1, z2, z3, z4, z5]

theorem encAShiftImm_reads (k : BitVec 4 → Bool → BitVec 4 → BitVec 5 → BitVec 4 → Instr) {value : Word} (hv : value &&& 0xf010ff8f = 0) (cond : BitVec 4) (setS : Bool) (rd : BitVec 4) (imm5 : BitVec 5) (rm : BitVec 4) :
    decAShiftImm k (encAShiftImm value cond setS rd imm5 rm) = k cond setS rd imm5 rm := by
  have z0 : fld value 28 4 = 0 := fld_of_and hv rfl
  have z1 : value.getLsbD 20 = false := getLsbD_of_and hv rfl
  have z2 : fld value 12 4 = 0 := fld_of_and hv rfl
  have z3 : fld value 7 5 = 0 := fld_of_and hv rfl
  have z4 : fld value 0 4 = 0 := fld_of_and hv rfl
  simp (disch := omega) only [decAShiftImm, encAShiftImm, fld_or, fld_place_same, zero_or_bits, or_zero_bits, fld_place_other, fld_flag_other, BitVec.getLsbD_or, getLsbD_flag_same, Bool.false_or, Bool.or_false, getLsbD_place_other, z0, z1, z2, z3, z4]

theorem encAShiftImm_hits {value rowMask : Word} (hv : value &&& rowMask = value) (hm : rowMask &&& 0xf010ff8f = 0) (cond : BitVec 4) (setS : Bool) (rd : BitVec 4) (imm5 : BitVec 5) (rm : BitVec 4) :
    encAShiftImm value cond setS rd imm5 rm &&& rowMask = value := by
  have z0 : place cond 28 &&& rowMask = 0 := place_and_mask _ _ _ (fld_of_and hm rfl)
  have z1 : flag setS 20 &&& rowMask = 0 := flag_and_mask _ _ _ (fld_of_and hm rfl)
  have z2 : place rd 12 &&& rowMask = 0 := place_and_mask _ _ _ (fld_of_and hm rfl)
  have z3 : place imm5 7 &&& rowMask = 0 := place_and_mask _ _ _ (fld_of_and hm rfl)
  have z4 : place rm 0 &&& rowMask = 0 := place_and_mask _ _ _ (fld_of_and hm rfl)
  simp only [encAShiftImm, or_and_mask, hv, or_zero_bits, z0, z1, z2, z3, z4]

theorem encAShiftReg_reads (k : BitVec 4 → Bool → BitVec 4 → BitVec 4 → BitVec 4 → Instr) {value : Word} (hv : value &&& 0xf010ff0f = 0) (cond : BitVec 4) (setS : Bool) (rd : BitVec 4) (rm : BitVec 4) (rn : BitVec 4) :
    decAShiftReg k (encAShiftReg value cond setS rd rm rn) = k cond setS rd rm rn := by
  have z0 : fld value 28 4 = 0 := fld_of_and hv rfl
  have z1 : value.getLsbD 20 = false := getLsbD_of_and hv rfl
  have z2 : fld value 12 4 = 0 := fld_of_and hv rfl
  have z3 : fld value 8 4 = 0 := fld_of_and hv rfl
  have z4 : fld value 0 4 = 0 := fld_of_and hv rfl
  simp (disch := omega) only [decAShiftReg, encAShiftReg, fld_or, fld_place_same, zero_or_bits, or_zero_bits, fld_place_other, fld_flag_other, BitVec.getLsbD_or, getLsbD_flag_same, Bool.false_or, Bool.or_false, getLsbD_place_other, z0, z1, z2, z3, z4]

theorem encAShiftReg_hits {value rowMask : Word} (hv : value &&& rowMask = value) (hm : rowMask &&& 0xf010ff0f = 0) (cond : BitVec 4) (setS : Bool) (rd : BitVec 4) (rm : BitVec 4) (rn : BitVec 4) :
    encAShiftReg value cond setS rd rm rn &&& rowMask = value := by
  have z0 : place cond 28 &&& rowMask = 0 := place_and_mask _ _ _ (fld_of_and hm rfl)
  have z1 : flag setS 20 &&& rowMask = 0 := flag_and_mask _ _ _ (fld_of_and hm rfl)
  have z2 : place rd 12 &&& rowMask = 0 := place_and_mask _ _ _ (fld_of_and hm rfl)
  have z3 : place rm 8 &&& rowMask = 0 := place_and_mask _ _ _ (fld_of_and hm rfl)
  have z4 : place rn 0 &&& rowMask = 0 := place_and_mask _ _ _ (fld_of_and hm rfl)
  simp only [encAShiftReg, or_and_mask, hv, or_zero_bits, z0, z1, z2, z3, z4]

theorem encARrx_reads (k : BitVec 4 → Bool → BitVec 4 → BitVec 4 → Instr) {value : Word} (hv : value &&& 0xf010f00f = 0) (cond : BitVec 4) (setS : Bool) (rd : BitVec 4) (rm : BitVec 4) :
    decARrx k (encARrx value cond setS rd rm) = k cond setS rd rm := by
  have z0 : fld value 28 4 = 0 := fld_of_and hv rfl
  have z1 : value.getLsbD 20 = false := getLsbD_of_and hv rfl
  have z2 : fld value 12 4 = 0 := fld_of_and hv rfl
  have z3 : fld value 0 4 = 0 := fld_of_and hv rfl
  simp (disch := omega) only [decARrx, encARrx, fld_or, fld_place_same, zero_or_bits, or_zero_bits, fld_place_other, fld_flag_other, BitVec.getLsbD_or, getLsbD_flag_same, Bool.false_or, Bool.or_false, getLsbD_place_other, z0, z1, z2, z3]

theorem encARrx_hits {value rowMask : Word} (hv : value &&& rowMask = value) (hm : rowMask &&& 0xf010f00f = 0) (cond : BitVec 4) (setS : Bool) (rd : BitVec 4) (rm : BitVec 4) :
    encARrx value cond setS rd rm &&& rowMask = value := by
  have z0 : place cond 28 &&& rowMask = 0 := place_and_mask _ _ _ (fld_of_and hm rfl)
  have z1 : flag setS 20 &&& rowMask = 0 := flag_and_mask _ _ _ (fld_of_and hm rfl)
  have z2 : place rd 12 &&& rowMask = 0 := place_and_mask _ _ _ (fld_of_and hm rfl)
  have z3 : place rm 0 &&& rowMask = 0 := place_and_mask _ _ _ (fld_of_and hm rfl)
  simp only [encARrx, or_and_mask, hv, or_zero_bits, z0, z1, z2, z3]

theorem encALdm_reads (k : BitVec 4 → Bool → BitVec 4 → BitVec 16 → Instr) {value : Word} (hv : value &&& 0xf02fffff = 0) (cond : BitVec 4) (w : Bool) (rn : BitVec 4) (regs : BitVec 16) :
    decALdm k (encALdm value cond w rn regs) = k cond w rn regs := by
  have z0 : fld value 28 4 = 0 := fld_of_and hv rfl
  have z1 : value.getLsbD 21 = false := getLsbD_of_and hv rfl
  have z2 : fld value 16 4 = 0 := fld_of_and hv rfl
  have z3 : fld value 0 16 = 0 := fld_of_and hv rfl
  simp (disch := omega) only [decALdm, encALdm, fld_or, fld_place_same, zero_or_bits, or_zero_bits, fld_place_other, fld_flag_other, BitVec.getLsbD_or, getLsbD_flag_same, Bool.false_or, Bool.or_false, getLsbD_place_other, z0, z1, z2, z3]

theorem encALdm_hits {value rowMask : Word} (hv : value &&& rowMask = value) (hm : rowMask &&& 0xf02fffff = 0) (cond : BitVec 4) (w : Bool) (rn : BitVec 4) (regs : BitVec 16) :
    encALdm value cond w rn regs &&& rowMask = value := by
  have z0 : place cond 28 &&& rowMask = 0 := place_and_mask _ _ _ (fld_of_and hm rfl)
  have z1 : flag w 21 &&& rowMask = 0 := flag_and_mask _ _ _ (fld_of_and hm rfl)
  have z2 : place rn 16 &&& rowMask = 0 := place_and_mask _ _ _ (fld_of_and hm rfl)
  have z3 : place regs 0 &&& rowMask = 0 := place_and_mask _ _ _ (fld_of_and hm rfl)
  simp only [encALdm, or_and_mask, hv, or_zero_bits, z0, z1, z2, z3]

theorem encALsLit_reads (k : BitVec 4 → Bool → BitVec 4 → BitVec 12 → Instr) {value : Word} (hv : value &&& 0xf080ffff = 0) (cond : BitVec 4) (u : Bool) (rt : BitVec 4) (imm12 : BitVec 12) :
    decALsLit k (encALsLit value cond u rt imm12) = k cond u rt imm12 := by
  have z0 : fld value 28 4 = 0 := fld_of_and hv rfl
  have z1 : value.getLsbD 23 = false := getLsbD_of_and hv rfl
  have z2 : fld value 12 4 = 0 := fld_of_and hv rfl
  have z3 : fld value 0 12 = 0 := fld_of_and hv rfl
  simp (disch := omega) only [decALsLit, encALsLit, fld_or, fld_place_same, zero_or_bits, or_zero_bits, fld_place_other, fld_flag_other, BitVec.getLsbD_or, getLsbD_flag_same, Bool.false_or, Bool.or_false, getLsbD_place_other, z0, z1, z2, z3]

theorem encALsLit_hits {value rowMask : Word} (hv : value &&& rowMask = value) (hm : rowMask &&& 0xf080ffff = 0) (cond : BitVec 4) (u : Bool) (rt : BitVec 4) (imm12 : BitVec 12) :
    encALsLit value cond u rt imm12 &&& rowMask = value := by
  have z0 : place cond 28 &&& rowMask = 0 := place_and_mask _ _ _ (fld_of_and hm rfl)
  have z1 : flag u 23 &&& rowMask = 0 := flag_and_mask _ _ _ (fld_of_and hm rfl)
  have z2 : place rt 12 &&& rowMask = 0 := place_and_mask _ _ _ (fld_of_and hm rfl)
  have z3 : place imm12 0 &&& rowMask = 0 := place_and_mask _ _ _ (fld_of_and hm rfl)
  simp only [encALsLit, or_and_mask, hv, or_zero_bits, z0, z1, z2, z3]

theorem encALsImm_reads (k : BitVec 4 → Bool → Bool → Bool → BitVec 4 → BitVec 4 → BitVec 12 → Instr) {value : Word} (hv : value &&& 0xf1afffff = 0) (cond : BitVec 4) (p : Bool) (u : Bool) (w : Bool) (rn : BitVec 4) (rt : BitVec 4) (imm12 : BitVec 12) :
    decALsImm k (encALsImm value cond p u w rn rt imm12) = k cond p u w rn rt imm12 := by
  have z0 : fld value 28 4 = 0 := fld_of_and hv rfl
  have z1 : value.getLsbD 24 = false := getLsbD_of_and hv rfl
  have z2 : value.getLsbD 23 = false := getLsbD_of_and hv rfl
  have z3 : value.getLsbD 21 = false := getLsbD_of_and hv rfl
  have z4 : fld value 16 4 = 0 := fld_of_and hv rfl
  have z5 : fld value 12 4 = 0 := fld_of_and hv rfl
  have z6 : fld value 0 12 = 0 := fld_of_and hv rfl
  simp (disch := omega) only [decALsImm, encALsImm, fld_or, fld_place_same, zero_or_bits, or_zero_bits, fld_place_other, fld_flag_other, BitVec.getLsbD_or, getLsbD_flag_same, Bool.false_or, Bool.or_false, getLsbD_flag_other, getLsbD_place_other, z0, z1, z2, z3, z4, z5, z6]

theorem encALsImm_hits {value rowMask : Word} (hv : value &&& rowMask = value) (hm : rowMask &&& 0xf1afffff = 0) (cond : BitVec 4) (p : Bool) (u : Bool) (w : Bool) (rn : BitVec 4) (rt : BitVec 4) (imm12 : BitVec 12) :
    encALsImm value cond p u w rn rt imm12 &&& rowMask = value := by
  have z0 : place cond 28 &&& rowMask = 0 := place_and_mask _ _ _ (fld_of_and hm rfl)
  have z1 : flag p 24 &&& rowMask = 0 := flag_and_mask _ _ _ (fld_of_and hm rfl)
  have z2 : flag u 23 &&& rowMask = 0 := flag_and_mask _ _ _ (fld_of_and hm rfl)
  have z3 : flag w 21 &&& rowMask = 0 := flag_and_mask _ _ _ (fld_of_and hm rfl)
  have z4 : place rn 16 &&& rowMask = 0 := place_and_mask _ _ _ (fld_of_and hm rfl)
  have z5 : place rt 12 &&& rowMask = 0 := place_and_mask _ _ _ (fld_of_and hm rfl)
  have z6 : place imm12 0 &&& rowMask = 0 := place_and_mask _ _ _ (fld_of_and hm rfl)
  simp only [encALsImm, or_and_mask, hv, or_zero_bits, z0, z1, z2, z3, z4, z5, z6]

theorem encALsReg_reads (k : BitVec 4 → Bool → Bool → Bool → BitVec 4 → BitVec 4 → BitVec 5 → BitVec 2 → BitVec 4 → Instr) {value : Word} (hv : value &&& 0xf1afffef = 0) (cond : BitVec 4) (p : Bool) (u : Bool) (w : Bool) (rn : BitVec 4) (rt : BitVec 4) (imm5 : BitVec 5) (ty : BitVec 2) (rm : BitVec 4) :
    decALsReg k (encALsReg value cond p u w rn rt imm5 ty rm) = k cond p u w rn rt imm5 ty rm := by
  have z0 : fld value 28 4 = 0 := fld_of_and hv rfl
  have z1 : value.getLsbD 24 = false := getLsbD_of_and hv rfl
  have z2 : value.getLsbD 23 = false := getLsbD_of_and hv rfl
  have z3 : value.getLsbD 21 = false := getLsbD_of_and hv rfl
  have z4 : fld value 16 4 = 0 := fld_of_and hv rfl
  have z5 : fld value 12 4 = 0 := fld_of_and hv rfl
  have z6 : fld value 7 5 = 0 := fld_of_and hv rfl
  have z7 : fld value 5 2 = 0 := fld_of_and hv rfl
  have z8 : fld value 0 4 = 0 := fld_of_and hv rfl
  simp (disch := omega) only [decALsReg, encALsReg, fld_or, fld_place_same, zero_or_bits, or_zero_bits, fld_place_other, fld_flag_other, BitVec.getLsbD_or, getLsbD_flag_same, Bool.false_or, Bool.or_false, getLsbD_flag_other, getLsbD_place_other, z0, z1, z2, z3, z4, z5, z6, z7, z8]

theorem encALsReg_hits {value rowMask : Word} (hv : value &&& rowMask = value) (hm : rowMask &&& 0xf1afffef = 0) (cond : BitVec 4) (p : Bool) (u : Bool) (w : Bool) (rn : BitVec 4) (rt : BitVec 4) (imm5 : BitVec 5) (ty : BitVec 2) (rm : BitVec 4) :
    encALsReg value cond p u w rn rt imm5 ty rm &&& rowMask = value := by
  have z0 : place cond 28 &&& rowMask = 0 := place_and_mask _ _ _ (fld_of_and hm rfl)
  have z1 : flag p 24 &&& rowMask = 0 := flag_and_mask _ _ _ (fld_of_and hm rfl)
  have z2 : flag u 23 &&& rowMask = 0 := flag_and_mask _ _ _ (fld_of_and hm rfl)
  have z3 : flag w 21 &&& rowMask = 0 := flag_and_mask _ _ _ (fld_of_and hm rfl)
  have z4 : place rn 16 &&& rowMask = 0 := place_and_mask _ _ _ (fld_of_and hm rfl)
  have z5 : place rt 12 &&& rowMask = 0 := place_and_mask _ _ _ (fld_of_and hm rfl)
  have z6 : place imm5 7 &&& rowMask = 0 := place_and_mask _ _ _ (fld_of_and hm rfl)
  have z7 : place ty 5 &&& rowMask = 0 := place_and_mask _ _ _ (fld_of_and hm rfl)
  have z8 : place rm 0 &&& rowMask = 0 := place_and_mask _ _ _ (fld_of_and hm rfl)
  simp only [encALsReg, or_and_mask, hv, or_zero_bits, z0, z1, z2, z3, z4, z5, z6, z7, z8]

theorem encT16Push_reads (k : Bool → BitVec 8 → Instr) {value : Word} (hv : value &&& 0x000001ff = 0) (m : Bool) (regs : BitVec 8) :
    decT16Push k (encT16Push value m regs) = k m regs := by
  have z0 : value.getLsbD 8 = false := getLsbD_of_and hv rfl
  have z1 : fld value 0 8 = 0 := fld_of_and hv rfl
  simp (disch := omega) only [decT16Push, encT16Push, fld_or, fld_place_same, zero_or_bits, or_zero_bits, fld_flag_other, BitVec.getLsbD_or, getLsbD_flag_same, Bool.false_or, Bool.or_false, getLsbD_place_other, z0, z1]

theorem encT16Push_hits {value rowMask : Word} (hv : value &&& rowMask = value) (hm : rowMask &&& 0x000001ff = 0) (m : Bool) (regs : BitVec 8) :
    encT16Push value m regs &&& rowMask = value := by
  have z0 : flag m 8 &&& rowMask = 0 := flag_and_mask _ _ _ (fld_of_and hm rfl)
  have z1 : place regs 0 &&& rowMask = 0 := place_and_mask _ _ _ (fld_of_and hm rfl)
  simp only [encT16Push, or_and_mask, hv, or_zero_bits, z0, z1]

theorem encT16Pop_reads (k : Bool → BitVec 8 → Instr) {value : Word} (hv : value &&& 0x000001ff = 0) (p : Bool) (regs : BitVec 8) :
    decT16Pop k (encT16Pop value p regs) = k p regs := by
  have z0 : value.getLsbD 8 = false := getLsbD_of_and hv rfl
  have z1 : fld value 0 8 = 0 := fld_of_and hv rfl
  simp (disch := omega) only [decT16Pop, encT16Pop, fld_or, fld_place_same, zero_or_bits, or_zero_bits, fld_flag_other, BitVec.getLsbD_or, getLsbD_flag_same, Bool.false_or, Bool.or_false, getLsbD_place_other, z0, z1]

theorem encT16Pop_hits {value rowMask : Word} (hv : value &&& rowMask = value) (hm : rowMask &&& 0x000001ff = 0) (p : Bool) (regs : BitVec 8) :
    encT16Pop value p regs &&& rowMask = value := by
  have z0 : flag p 8 &&& rowMask = 0 := flag_and_mask _ _ _ (fld_of_and hm rfl)
  have z1 : place regs 0 &&& rowMask = 0 := place_and_mask _ _ _ (fld_of_and hm rfl)
  simp only [encT16Pop, or_and_mask, hv, or_zero_bits, z0, z1]

theorem encT16Sprd_reads (k : BitVec 3 → BitVec 8 → Instr) {value : Word} (hv : value &&& 0x000007ff = 0) (rd : BitVec 3) (imm8 : BitVec 8) :
    decT16Sprd k (encT16Sprd value rd imm8) = k rd imm8 := by
  have z0 : fld value 8 3 = 0 := fld_of_and hv rfl
  have z1 : fld value 0 8 = 0 := fld_of_and hv rfl
  simp (disch := omega) only [decT16Sprd, encT16Sprd, fld_or, fld_place_same, zero_or_bits, or_zero_bits, fld_place_other, z0, z1]

theorem encT16Sprd_hits {value rowMask : Word} (hv : value &&& rowMask = value) (hm : rowMask &&& 0x000007ff = 0) (rd : BitVec 3) (imm8 : BitVec 8) :
    encT16Sprd value rd imm8 &&& rowMask = value := by
  have z0 : place rd 8 &&& rowMask = 0 := place_and_mask _ _ _ (fld_of_and hm rfl)
  have z1 : place imm8 0 &&& rowMask = 0 := place_and_mask _ _ _ (fld_of_and hm rfl)
  simp only [encT16Sprd, or_and_mask, hv, or_zero_bits, z0, z1]

theorem encT16Sp7_reads (k : BitVec 7 → Instr) {value : Word} (hv : value &&& 0x0000007f = 0) (imm7 : BitVec 7) :
    decT16Sp7 k (encT16Sp7 value imm7) = k imm7 := by
  have z0 : fld value 0 7 = 0 := fld_of_and hv rfl
  simp (disch := omega) only [decT16Sp7, encT16Sp7, fld_or, fld_place_same, zero_or_bits, z0]

theorem encT16Sp7_hits {value rowMask : Word} (hv : value &&& rowMask = value) (hm : rowMask &&& 0x0000007f = 0) (imm7 : BitVec 7) :
    encT16Sp7 value imm7 &&& rowMask = value := by
  have z0 : place imm7 0 &&& rowMask = 0 := place_and_mask _ _ _ (fld_of_and hm rfl)
  simp only [encT16Sp7, or_and_mask, hv, or_zero_bits, z0]

theorem encT16Imm8_reads (k : BitVec 8 → Instr) {value : Word} (hv : value &&& 0x000000ff = 0) (imm8 : BitVec 8) :
    decT16Imm8 k (encT16Imm8 value imm8) = k imm8 := by
  have z0 : fld value 0 8 = 0 := fld_of_and hv rfl
  simp (disch := omega) only [decT16Imm8, encT16Imm8, fld_or, fld_place_same, zero_or_bits, z0]

theorem encT16Imm8_hits {value rowMask : Word} (hv : value &&& rowMask = value) (hm : rowMask &&& 0x000000ff = 0) (imm8 : BitVec 8) :
    encT16Imm8 value imm8 &&& rowMask = value := by
  have z0 : place imm8 0 &&& rowMask = 0 := place_and_mask _ _ _ (fld_of_and hm rfl)
  simp only [encT16Imm8, or_and_mask, hv, or_zero_bits, z0]

theorem encT16Bcond_reads (k : BitVec 4 → BitVec 8 → Instr) {value : Word} (hv : value &&& 0x00000fff = 0) (cond : BitVec 4) (imm8 : BitVec 8) :
    decT16Bcond k (encT16Bcond value cond imm8) = k cond imm8 := by
  have z0 : fld value 8 4 = 0 := fld_of_and hv rfl
  have z1 : fld value 0 8 = 0 := fld_of_and hv rfl
  simp (disch := omega) only [decT16Bcond, encT16Bcond, fld_or, fld_place_same, zero_or_bits, or_zero_bits, fld_place_other, z0, z1]

theorem encT16Bcond_hits {value rowMask : Word} (hv : value &&& rowMask = value) (hm : rowMask &&& 0x00000fff = 0) (cond : BitVec 4) (imm8 : BitVec 8) :
    encT16Bcond value cond imm8 &&& rowMask = value := by
  have z0 : place cond 8 &&& rowMask = 0 := place_and_mask _ _ _ (fld_of_and hm rfl)
  have z1 : place imm8 0 &&& rowMask = 0 := place_and_mask _ _ _ (fld_of_and hm rfl)
  simp only [encT16Bcond, or_and_mask, hv, or_zero_bits, z0, z1]

theorem encT16B_reads (k : BitVec 11 → Instr) {value : Word} (hv : value &&& 0x000007ff = 0) (imm11 : BitVec 11) :
    decT16B k (encT16B value imm11) = k imm11 := by
  have z0 : fld value 0 11 = 0 := fld_of_and hv rfl
  simp (disch := omega) only [decT16B, encT16B, fld_or, fld_place_same, zero_or_bits, z0]

theorem encT16B_hits {value rowMask : Word} (hv : value &&& rowMask = value) (hm : rowMask &&& 0x000007ff = 0) (imm11 : BitVec 11) :
    encT16B value imm11 &&& rowMask = value := by
  have z0 : place imm11 0 &&& rowMask = 0 := place_and_mask _ _ _ (fld_of_and hm rfl)
  simp only [encT16B, or_and_mask, hv, or_zero_bits, z0]

theorem encT16Rm_reads (k : BitVec 4 → Instr) {value : Word} (hv : value &&& 0x00000078 = 0) (rm : BitVec 4) :
    decT16Rm k (encT16Rm value rm) = k rm := by
  have z0 : fld value 3 4 = 0 := fld_of_and hv rfl
  simp (disch := omega) only [decT16Rm, encT16Rm, fld_or, fld_place_same, zero_or_bits, z0]

theorem encT16Rm_hits {value rowMask : Word} (hv : value &&& rowMask = value) (hm : rowMask &&& 0x00000078 = 0) (rm : BitVec 4) :
    encT16Rm value rm &&& rowMask = value := by
  have z0 : place rm 3 &&& rowMask = 0 := place_and_mask _ _ _ (fld_of_and hm rfl)
  simp only [encT16Rm, or_and_mask, hv, or_zero_bits, z0]

theorem encT16Cb_reads (k : BitVec 1 → BitVec 5 → BitVec 3 → Instr) {value : Word} (hv : value &&& 0x000002ff = 0) (i1 : BitVec 1) (imm5 : BitVec 5) (rn : BitVec 3) :
    decT16Cb k (encT16Cb value i1 imm5 rn) = k i1 imm5 rn := by
  have z0 : fld value 9 1 = 0 := fld_of_and hv rfl
  have z1 : fld value 3 5 = 0 := fld_of_and hv rfl
  have z2 : fld value 0 3 = 0 := fld_of_and hv rfl
  simp (disch := omega) only [decT16Cb, encT16Cb, fld_or, fld_place_same, zero_or_bits, or_zero_bits, fld_place_other, z0, z1, z2]

theorem encT16Cb_hits {value rowMask : Word} (hv : value &&& rowMask = value) (hm : rowMask &&& 0x000002ff = 0) (i1 : BitVec 1) (imm5 : BitVec 5) (rn : BitVec 3) :
    encT16Cb value i1 imm5 rn &&& rowMask = value := by
  have z0 : place i1 9 &&& rowMask = 0 := place_and_mask _ _ _ (fld_of_and hm rfl)
  have z1 : place imm5 3 &&& rowMask = 0 := place_and_mask _ _ _ (fld_of_and hm rfl)
  have z2 : place rn 0 &&& rowMask = 0 := place_and_mask _ _ _ (fld_of_and hm rfl)
  simp only [encT16Cb, or_and_mask, hv, or_zero_bits, z0, z1, z2]

theorem encT16It_reads (k : BitVec 4 → BitVec 4 → Instr) {value : Word} (hv : value &&& 0x000000ff = 0) (firstcond : BitVec 4) (mask : BitVec 4) :
    decT16It k (encT16It value firstcond mask) = k firstcond mask := by
  have z0 : fld value 4 4 = 0 := fld_of_and hv rfl
  have z1 : fld value 0 4 = 0 := fld_of_and hv rfl
  simp (disch := omega) only [decT16It, encT16It, fld_or, fld_place_same, zero_or_bits, or_zero_bits, fld_place_other, z0, z1]

theorem encT16It_hits {value rowMask : Word} (hv : value &&& rowMask = value) (hm : rowMask &&& 0x000000ff = 0) (firstcond : BitVec 4) (mask : BitVec 4) :
    encT16It value firstcond mask &&& rowMask = value := by
  have z0 : place firstcond 4 &&& rowMask = 0 := place_and_mask _ _ _ (fld_of_and hm rfl)
  have z1 : place mask 0 &&& rowMask = 0 := place_and_mask _ _ _ (fld_of_and hm rfl)
  simp only [encT16It, or_and_mask, hv, or_zero_bits, z0, z1]

theorem encT16Dp_reads (k : BitVec 3 → BitVec 3 → Instr) {value : Word} (hv : value &&& 0x0000003f = 0) (rm : BitVec 3) (rdn : BitVec 3) :
    decT16Dp k (encT16Dp value rm rdn) = k rm rdn := by
  have z0 : fld value 3 3 = 0 := fld_of_and hv rfl
  have z1 : fld value 0 3 = 0 := fld_of_and hv rfl
  simp (disch := omega) only [decT16Dp, encT16Dp, fld_or, fld_place_same, zero_or_bits, or_zero_bits, fld_place_other, z0, z1]

theorem encT16Dp_hits {value rowMask : Word} (hv : value &&& rowMask = value) (hm : rowMask &&& 0x0000003f = 0) (rm : BitVec 3) (rdn : BitVec 3) :
    encT16Dp value rm rdn &&& rowMask = value := by
  have z0 : place rm 3 &&& rowMask = 0 := place_and_mask _ _ _ (fld_of_and hm rfl)
  have z1 : place rdn 0 &&& rowMask = 0 := place_and_mask _ _ _ (fld_of_and hm rfl)
  simp only [encT16Dp, or_and_mask, hv, or_zero_bits, z0, z1]

theorem encT16Imm3_reads (k : BitVec 3 → BitVec 3 → BitVec 3 → Instr) {value : Word} (hv : value &&& 0x000001ff = 0) (imm3 : BitVec 3) (rn : BitVec 3) (rd : BitVec 3) :
    decT16Imm3 k (encT16Imm3 value imm3 rn rd) = k imm3 rn rd := by
  have z0 : fld value 6 3 = 0 := fld_of_and hv rfl
  have z1 : fld value 3 3 = 0 := fld_of_and hv rfl
  have z2 : fld value 0 3 = 0 := fld_of_and hv rfl
  simp (disch := omega) only [decT16Imm3, encT16Imm3, fld_or, fld_place_same, zero_or_bits, or_zero_bits, fld_place_other, z0, z1, z2]

theorem encT16Imm3_hits {value rowMask : Word} (hv : value &&& rowMask = value) (hm : rowMask &&& 0x000001ff = 0) (imm3 : BitVec 3) (rn : BitVec 3) (rd : BitVec 3) :
    encT16Imm3 value imm3 rn rd &&& rowMask = value := by
  have z0 : place imm3 6 &&& rowMask = 0 := place_and_mask _ _ _ (fld_of_and hm rfl)
  have z1 : place rn 3 &&& rowMask = 0 := place_and_mask _ _ _ (fld_of_and hm rfl)
  have z2 : place rd 0 &&& rowMask = 0 := place_and_mask _ _ _ (fld_of_and hm rfl)
  simp only [encT16Imm3, or_and_mask, hv, or_zero_bits, z0, z1, z2]

theorem encT16RdnImm8_reads (k : BitVec 3 → BitVec 8 → Instr) {value : Word} (hv : value &&& 0x000007ff = 0) (rdn : BitVec 3) (imm8 : BitVec 8) :
    decT16RdnImm8 k (encT16RdnImm8 value rdn imm8) = k rdn imm8 := by
  have z0 : fld value 8 3 = 0 := fld_of_and hv rfl
  have z1 : fld value 0 8 = 0 := fld_of_and hv rfl
  simp (disch := omega) only [decT16RdnImm8, encT16RdnImm8, fld_or, fld_place_same, zero_or_bits, or_zero_bits, fld_place_other, z0, z1]

theorem encT16RdnImm8_hits {value rowMask : Word} (hv : value &&& rowMask = value) (hm : rowMask &&& 0x000007ff = 0) (rdn : BitVec 3) (imm8 : BitVec 8) :
    encT16RdnImm8 value rdn imm8 &&& rowMask = value := by
  have z0 : place rdn 8 &&& rowMask = 0 := place_and_mask _ _ _ (fld_of_and hm rfl)
  have z1 : place imm8 0 &&& rowMask = 0 := place_and_mask _ _ _ (fld_of_and hm rfl)
  simp only [encT16RdnImm8, or_and_mask, hv, or_zero_bits, z0, z1]

theorem encT16Reg3_reads (k : BitVec 3 → BitVec 3 → BitVec 3 → Instr) {value : Word} (hv : value &&& 0x000001ff = 0) (rm : BitVec 3) (rn : BitVec 3) (rd : BitVec 3) :
    decT16Reg3 k (encT16Reg3 value rm rn rd) = k rm rn rd := by
  have z0 : fld value 6 3 = 0 := fld_of_and hv rfl
  have z1 : fld value 3 3 = 0 := fld_of_and hv rfl
  have z2 : fld value 0 3 = 0 := fld_of_and hv rfl
  simp (disch := omega) only [decT16Reg3, encT16Reg3, fld_or, fld_place_same, zero_or_bits, or_zero_bits, fld_place_other, z0, z1, z2]

theorem encT16Reg3_hits {value rowMask : Word} (hv : value &&& rowMask = value) (hm : rowMask &&& 0x000001ff = 0) (rm : BitVec 3) (rn : BitVec 3) (rd : BitVec 3) :
    encT16Reg3 value rm rn rd &&& rowMask = value := by
  have z0 : place rm 6 &&& rowMask = 0 := place_and_mask _ _ _ (fld_of_and hm rfl)
  have z1 : place rn 3 &&& rowMask = 0 := place_and_mask _ _ _ (fld_of_and hm rfl)
  have z2 : place rd 0 &&& rowMask = 0 := place_and_mask _ _ _ (fld_of_and hm rfl)
  simp only [encT16Reg3, or_and_mask, hv, or_zero_bits, z0, z1, z2]

theorem encT16Hi_reads (k : BitVec 1 → BitVec 4 → BitVec 3 → Instr) {value : Word} (hv : value &&& 0x000000ff = 0) (dn : BitVec 1) (rm : BitVec 4) (rdn : BitVec 3) :
    decT16Hi k (encT16Hi value dn rm rdn) = k dn rm rdn := by
  have z0 : fld value 7 1 = 0 := fld_of_and hv rfl
  have z1 : fld value 3 4 = 0 := fld_of_and hv rfl
  have z2 : fld value 0 3 = 0 := fld_of_and hv rfl
  simp (disch := omega) only [decT16Hi, encT16Hi, fld_or, fld_place_same, zero_or_bits, or_zero_bits, fld_place_other, z0, z1, z2]

theorem encT16Hi_hits {value rowMask : Word} (hv : value &&& rowMask = value) (hm : rowMask &&& 0x000000ff = 0) (dn : BitVec 1) (rm : BitVec 4) (rdn : BitVec 3) :
    encT16Hi value dn rm rdn &&& rowMask = value := by
  have z0 : place dn 7 &&& rowMask = 0 := place_and_mask _ _ _ (fld_of_and hm rfl)
  have z1 : place rm 3 &&& rowMask = 0 := place_and_mask _ _ _ (fld_of_and hm rfl)
  have z2 : place rdn 0 &&& rowMask = 0 := place_and_mask _ _ _ (fld_of_and hm rfl)
  simp only [encT16Hi, or_and_mask, hv, or_zero_bits, z0, z1, z2]

theorem encT16ShiftImm_reads (k : BitVec 5 → BitVec 3 → BitVec 3 → Instr) {value : Word} (hv : value &&& 0x000007ff = 0) (imm5 : BitVec 5) (rm : BitVec 3) (rd : BitVec 3) :
    decT16ShiftImm k (encT16ShiftImm value imm5 rm rd) = k imm5 rm rd := by
  have z0 : fld value 6 5 = 0 := fld_of_and hv rfl
  have z1 : fld value 3 3 = 0 := fld_of_and hv rfl
  have z2 : fld value 0 3 = 0 := fld_of_and hv rfl
  simp (disch := omega) only [decT16ShiftImm, encT16ShiftImm, fld_or, fld_place_same, zero_or_bits, or_zero_bits, fld_place_other, z0, z1, z2]

theorem encT16ShiftImm_hits {value rowMask : Word} (hv : value &&& rowMask = value) (hm : rowMask &&& 0x000007ff = 0) (imm5 : BitVec 5) (rm : BitVec 3) (rd : BitVec 3) :
    encT16ShiftImm value imm5 rm rd &&& rowMask = value := by
  have z0 : place imm5 6 &&& rowMask = 0 := place_and_mask _ _ _ (fld_of_and hm rfl)
  have z1 : place rm 3 &&& rowMask = 0 := place_and_mask _ _ _ (fld_of_and hm rfl)
  have z2 : place rd 0 &&& rowMask = 0 := place_and_mask _ _ _ (fld_of_and hm rfl)
  simp only [encT16ShiftImm, or_and_mask, hv, or_zero_bits, z0, z1, z2]

theorem encT16Ldm_reads (k : BitVec 3 → BitVec 8 → Instr) {value : Word} (hv : value &&& 0x000007ff = 0) (rn : BitVec 3) (regs : BitVec 8) :
    decT16Ldm k (encT16Ldm value rn regs) = k rn regs := by
  have z0 : fld value 8 3 = 0 := fld_of_and hv rfl
  have z1 : fld value 0 8 = 0 := fld_of_and hv rfl
  simp (disch := omega) only [decT16Ldm, encT16Ldm, fld_or, fld_place_same, zero_or_bits, or_zero_bits, fld_place_other, z0, z1]

theorem encT16Ldm_hits {value rowMask : Word} (hv : value &&& rowMask = value) (hm : rowMask &&& 0x000007ff = 0) (rn : BitVec 3) (regs : BitVec 8) :
    encT16Ldm value rn regs &&& rowMask = value := by
  have z0 : place rn 8 &&& rowMask = 0 := place_and_mask _ _ _ (fld_of_and hm rfl)
  have z1 : place regs 0 &&& rowMask = 0 := place_and_mask _ _ _ (fld_of_and hm rfl)
  simp only [encT16Ldm, or_and_mask, hv, or_zero_bits, z0, z1]

theorem encT16LsImm5_reads (k : BitVec 5 → BitVec 3 → BitVec 3 → Instr) {value : Word} (hv : value &&& 0x000007ff = 0) (imm5 : BitVec 5) (rn : BitVec 3) (rt : BitVec 3) :
    decT16LsImm5 k (encT16LsImm5 value imm5 rn rt) = k imm5 rn rt := by
  have z0 : fld value 6 5 = 0 := fld_of_and hv rfl
  have z1 : fld value 3 3 = 0 := fld_of_and hv rfl
  have z2 : fld value 0 3 = 0 := fld_of_and hv rfl
  simp (disch := omega) only [decT16LsImm5, encT16LsImm5, fld_or, fld_place_same, zero_or_bits, or_zero_bits, fld_place_other, z0, z1, z2]

theorem encT16LsImm5_hits {value rowMask : Word} (hv : value &&& rowMask = value) (hm : rowMask &&& 0x000007ff = 0) (imm5 : BitVec 5) (rn : BitVec 3) (rt : BitVec 3) :
    encT16LsImm5 value imm5 rn rt &&& rowMask = value := by
  have z0 : place imm5 6 &&& rowMask = 0 := place_and_mask _ _ _ (fld_of_and hm rfl)
  have z1 : place rn 3 &&& rowMask = 0 := place_and_mask _ _ _ (fld_of_and hm rfl)
  have z2 : place rt 0 &&& rowMask = 0 := place_and_mask _ _ _ (fld_of_and hm rfl)
  simp only [encT16LsImm5, or_and_mask, hv, or_zero_bits, z0, z1, z2]

theorem encT16RtImm8_reads (k : BitVec 3 → BitVec 8 → Instr) {value : Word} (hv : value &&& 0x000007ff = 0) (rt : BitVec 3) (imm8 : BitVec 8) :
    decT16RtImm8 k (encT16RtImm8 value rt imm8) = k rt imm8 := by
  have z0 : fld value 8 3 = 0 := fld_of_and hv rfl
  have z1 : fld value 0 8 = 0 := fld_of_and hv rfl
  simp (disch := omega) only [decT16RtImm8, encT16RtImm8, fld_or, fld_place_same, zero_or_bits, or_zero_bits, fld_place_other, z0, z1]

theorem encT16RtImm8_hits {value rowMask : Word} (hv : value &&& rowMask = value) (hm : rowMask &&& 0x000007ff = 0) (rt : BitVec 3) (imm8 : BitVec 8) :
    encT16RtImm8 value rt imm8 &&& rowMask = value := by
  have z0 : place rt 8 &&& rowMask = 0 := place_and_mask _ _ _ (fld_of_and hm rfl)
  have z1 : place imm8 0 &&& rowMask = 0 := place_and_mask _ _ _ (fld_of_and hm rfl)
  simp only [encT16RtImm8, or_and_mask, hv, or_zero_bits, z0, z1]

theorem encT16LsReg_reads (k : BitVec 3 → BitVec 3 → BitVec 3 → Instr) {value : Word} (hv : value &&& 0x000001ff = 0) (rm : BitVec 3) (rn : BitVec 3) (rt : BitVec 3) :
    decT16LsReg k (encT16LsReg value rm rn rt) = k rm rn rt := by
  have z0 : fld value 6 3 = 0 := fld_of_and hv rfl
  have z1 : fld value 3 3 = 0 := fld_of_and hv rfl
  have z2 : fld value 0 3 = 0 := fld_of_and hv rfl
  simp (disch := omega) only [decT16LsReg, encT16LsReg, fld_or, fld_place_same, zero_or_bits, or_zero_bits, fld_place_other, z0, z1, z2]

theorem encT16LsReg_hits {value rowMask : Word} (hv : value &&& rowMask = value) (hm : rowMask &&& 0x000001ff = 0) (rm : BitVec 3) (rn : BitVec 3) (rt : BitVec 3) :
    encT16LsReg value rm rn rt &&& rowMask = value := by
  have z0 : place rm 6 &&& rowMask = 0 := place_and_mask _ _ _ (fld_of_and hm rfl)
  have z1 : place rn 3 &&& rowMask = 0 := place_and_mask _ _ _ (fld_of_and hm rfl)
  have z2 : place rt 0 &&& rowMask = 0 := place_and_mask _ _ _ (fld_of_and hm rfl)
  simp only [encT16LsReg, or_and_mask, hv, or_zero_bits, z0, z1, z2]

theorem encT32ReglistPush_reads (k : Bool → BitVec 13 → Instr) {value : Word} (hv : value &&& 0x00005fff = 0) (m : Bool) (regs : BitVec 13) :
    decT32ReglistPush k (encT32ReglistPush value m regs) = k m regs := by
  have z0 : value.getLsbD 14 = false := getLsbD_of_and hv rfl
  have z1 : fld value 0 13 = 0 := fld_of_and hv rfl
  simp (disch := omega) only [decT32ReglistPush, encT32ReglistPush, fld_or, fld_place_same, zero_or_bits, or_zero_bits, fld_flag_other, BitVec.getLsbD_or, getLsbD_flag_same, Bool.false_or, Bool.or_false, getLsbD_place_other, z0, z1]

theorem encT32ReglistPush_hits {value rowMask : Word} (hv : value &&& rowMask = value) (hm : rowMask &&& 0x00005fff = 0) (m : Bool) (regs : BitVec 13) :
    encT32ReglistPush value m regs &&& rowMask = value := by
  have z0 : flag m 14 &&& rowMask = 0 := flag_and_mask _ _ _ (fld_of_and hm rfl)
  have z1 : place regs 0 &&& rowMask = 0 := place_and_mask _ _ _ (fld_of_and hm rfl)
  simp only [encT32ReglistPush, or_and_mask, hv, or_zero_bits, z0, z1]

theorem encT32Rt_reads (k : BitVec 4 → Instr) {value : Word} (hv : value &&& 0x0000f000 = 0) (rt : BitVec 4) :
    decT32Rt k (encT32Rt value rt) = k rt := by
  have z0 : fld value 12 4 = 0 := fld_of_and hv rfl
  simp (disch := omega) only [decT32Rt, encT32Rt, fld_or, fld_place_same, zero_or_bits, z0]

theorem encT32Rt_hits {value rowMask : Word} (hv : value &&& rowMask = value) (hm : rowMask &&& 0x0000f000 = 0) (rt : BitVec 4) :
    encT32Rt value rt &&& rowMask = value := by
  have z0 : place rt 12 &&& rowMask = 0 := place_and_mask _ _ _ (fld_of_and hm rfl)
  simp only [encT32Rt, or_and_mask, hv, or_zero_bits, z0]

theorem encT32Reglist_reads (k : Bool → Bool → BitVec 13 → Instr) {value : Word} (hv : value &&& 0x0000dfff = 0) (p : Bool) (m : Bool) (regs : BitVec 13) :
    decT32Reglist k (encT32Reglist value p m regs) = k p m regs := by
  have z0 : value.getLsbD 15 = false := getLsbD_of_and hv rfl
  have z1 : value.getLsbD 14 = false := getLsbD_of_and hv rfl
  have z2 : fld value 0 13 = 0 := fld_of_and hv rfl
  simp (disch := omega) only [decT32Reglist, encT32Reglist, fld_or, fld_place_same, zero_or_bits, or_zero_bits, fld_flag_other, BitVec.getLsbD_or, getLsbD_flag_same, Bool.false_or, Bool.or_false, getLsbD_flag_other, getLsbD_place_other, z0, z1, z2]

theorem encT32Reglist_hits {value rowMask : Word} (hv : value &&& rowMask = value) (hm : rowMask &&& 0x0000dfff = 0) (p : Bool) (m : Bool) (regs : BitVec 13) :
    encT32Reglist value p m regs &&& rowMask = value := by
  have z0 : flag p 15 &&& rowMask = 0 := flag_and_mask _ _ _ (fld_of_and hm rfl)
  have z1 : flag m 14 &&& rowMask = 0 := flag_and_mask _ _ _ (fld_of_and hm rfl)
  have z2 : place regs 0 &&& rowMask = 0 := place_and_mask _ _ _ (fld_of_and hm rfl)
  simp only [encT32Reglist, or_and_mask, hv, or_zero_bits, z0, z1, z2]

theorem encT32Vlist_reads (k : BitVec 1 → BitVec 4 → BitVec 8 → Instr) {value : Word} (hv : value &&& 0x0040f0ff = 0) (dbit : BitVec 1) (vd : BitVec 4) (imm8 : BitVec 8) :
    decT32Vlist k (encT32Vlist value dbit vd imm8) = k dbit vd imm8 := by
  have z0 : fld value 22 1 = 0 := fld_of_and hv rfl
  have z1 : fld value 12 4 = 0 := fld_of_and hv rfl
  have z2 : fld value 0 8 = 0 := fld_of_and hv rfl
  simp (disch := omega) only [decT32Vlist, encT32Vlist, fld_or, fld_place_same, zero_or_bits, or_zero_bits, fld_place_other, z0, z1, z2]

theorem encT32Vlist_hits {value rowMask : Word} (hv : value &&& rowMask = value) (hm : rowMask &&& 0x0040f0ff = 0) (dbit : BitVec 1) (vd : BitVec 4) (imm8 : BitVec 8) :
    encT32Vlist value dbit vd imm8 &&& rowMask = value := by
  have z0 : place dbit 22 &&& rowMask = 0 := place_and_mask _ _ _ (fld_of_and hm rfl)
  have z1 : place vd 12 &&& rowMask = 0 := place_and_mask _ _ _ (fld_of_and hm rfl)
  have z2 : place imm8 0 &&& rowMask = 0 := place_and_mask _ _ _ (fld_of_and hm rfl)
  simp only [encT32Vlist, or_and_mask, hv, or_zero_bits, z0, z1, z2]

theorem encT32Bcond_reads (k : BitVec 1 → BitVec 4 → BitVec 6 → BitVec 1 → BitVec 1 → BitVec 11 → Instr) {value : Word} (hv : value &&& 0x07ff2fff = 0) (sgn : BitVec 1) (cond : BitVec 4) (imm6 : BitVec 6) (j1 : BitVec 1) (j2 : BitVec 1) (imm11 : BitVec 11) :
    decT32Bcond k (encT32Bcond value sgn cond imm6 j1 j2 imm11) = k sgn cond imm6 j1 j2 imm11 := by
  have z0 : fld value 26 1 = 0 := fld_of_and hv rfl
  have z1 : fld value 22 4 = 0 := fld_of_and hv rfl
  have z2 : fld value 16 6 = 0 := fld_of_and hv rfl
  have z3 : fld value 13 1 = 0 := fld_of_and hv rfl
  have z4 : fld value 11 1 = 0 := fld_of_and hv rfl
  have z5 : fld value 0 11 = 0 := fld_of_and hv rfl
  simp (disch := omega) only [decT32Bcond, encT32Bcond, fld_or, fld_place_same, zero_or_bits, or_zero_bits, fld_place_other, z0, z1, z2, z3, z4, z5]

theorem encT32Bcond_hits {value rowMask : Word} (hv : value &&& rowMask = value) (hm : rowMask &&& 0x07ff2fff = 0) (sgn : BitVec 1) (cond : BitVec 4) (imm6 : BitVec 6) (j1 : BitVec 1) (j2 : BitVec 1) (imm11 : BitVec 11) :
    encT32Bcond value sgn cond imm6 j1 j2 imm11 &&& rowMask = value := by
  have z0 : place sgn 26 &&& rowMask = 0 := place_and_mask _ _ _ (fld_of_and hm rfl)
  have z1 : place cond 22 &&& rowMask = 0 := place_and_mask _ _ _ (fld_of_and hm rfl)
  have z2 : place imm6 16 &&& rowMask = 0 := place_and_mask _ _ _ (fld_of_and hm rfl)
  have z3 : place j1 13 &&& rowMask = 0 := place_and_mask _ _ _ (fld_of_and hm rfl)
  have z4 : place j2 11 &&& rowMask = 0 := place_and_mask _ _ _ (fld_of_and hm rfl)
  have z5 : place imm11 0 &&& rowMask = 0 := place_and_mask _ _ _ (fld_of_and hm rfl)
  simp only [encT32Bcond, or_and_mask, hv, or_zero_bits, z0, z1, z2, z3, z4, z5]

theorem encT32B_reads (k : BitVec 1 → BitVec 10 → BitVec 1 → BitVec 1 → BitVec 11 → Instr) {value : Word} (hv : value &&& 0x07ff2fff = 0) (sgn : BitVec 1) (imm10 : BitVec 10) (j1 : BitVec 1) (j2 : BitVec 1) (imm11 : BitVec 11) :
    decT32B k (encT32B value sgn imm10 j1 j2 imm11) = k sgn imm10 j1 j2 imm11 := by
  have z0 : fld value 26 1 = 0 := fld_of_and hv rfl
  have z1 : fld value 16 10 = 0 := fld_of_and hv rfl
  have z2 : fld value 13 1 = 0 := fld_of_and hv rfl
  have z3 : fld value 11 1 = 0 := fld_of_and hv rfl
  have z4 : fld value 0 11 = 0 := fld_of_and hv rfl
  simp (disch := omega) only [decT32B, encT32B, fld_or, fld_place_same, zero_or_bits, or_zero_bits, fld_place_other, z0, z1, z2, z3, z4]

theorem encT32B_hits {value rowMask : Word} (hv : value &&& rowMask = value) (hm : rowMask &&& 0x07ff2fff = 0) (sgn : BitVec 1) (imm10 : BitVec 10) (j1 : BitVec 1) (j2 : BitVec 1) (imm11 : BitVec 11) :
    encT32B value sgn imm10 j1 j2 imm11 &&& rowMask = value := by
  have z0 : place sgn 26 &&& rowMask = 0 := place_and_mask _ _ _ (fld_of_and hm rfl)
  have z1 : place imm10 16 &&& rowMask = 0 := place_and_mask _ _ _ (fld_of_and hm rfl)
  have z2 : place j1 13 &&& rowMask = 0 := place_and_mask _ _ _ (fld_of_and hm rfl)
  have z3 : place j2 11 &&& rowMask = 0 := place_and_mask _ _ _ (fld_of_and hm rfl)
  have z4 : place imm11 0 &&& rowMask = 0 := place_and_mask _ _ _ (fld_of_and hm rfl)
  simp only [encT32B, or_and_mask, hv, or_zero_bits, z0, z1, z2, z3, z4]

theorem encT32Blx_reads (k : BitVec 1 → BitVec 10 → BitVec 1 → BitVec 1 → BitVec 10 → BitVec 1 → Instr) {value : Word} (hv : value &&& 0x07ff2fff = 0) (sgn : BitVec 1) (imm10h : BitVec 10) (j1 : BitVec 1) (j2 : BitVec 1) (imm10l : BitVec 10) (h : BitVec 1) :
    decT32Blx k (encT32Blx value sgn imm10h j1 j2 imm10l h) = k sgn imm10h j1 j2 imm10l h := by
  have z0 : fld value 26 1 = 0 := fld_of_and hv rfl
  have z1 : fld value 16 10 = 0 := fld_of_and hv rfl
  have z2 : fld value 13 1 = 0 := fld_of_and hv rfl
  have z3 : fld value 11 1 = 0 := fld_of_and hv rfl
  have z4 : fld value 1 10 = 0 := fld_of_and hv rfl
  have z5 : fld value 0 1 = 0 := fld_of_and hv rfl
  simp (disch := omega) only [decT32Blx, encT32Blx, fld_or, fld_place_same, zero_or_bits, or_zero_bits, fld_place_other, z0, z1, z2, z3, z4, z5]

theorem encT32Blx_hits {value rowMask : Word} (hv : value &&& rowMask = value) (hm : rowMask &&& 0x07ff2fff = 0) (sgn : BitVec 1) (imm10h : BitVec 10) (j1 : BitVec 1) (j2 : BitVec 1) (imm10l : BitVec 10) (h : BitVec 1) :
    encT32Blx value sgn imm10h j1 j2 imm10l h &&& rowMask = value := by
  have z0 : place sgn 26 &&& rowMask = 0 := place_and_mask _ _ _ (fld_of_and hm rfl)
  have z1 : place imm10h 16 &&& rowMask = 0 := place_and_mask _ _ _ (fld_of_and hm rfl)
  have z2 : place j1 13 &&& rowMask = 0 := place_and_mask _ _ _ (fld_of_and hm rfl)
  have z3 : place j2 11 &&& rowMask = 0 := place_and_mask _ _ _ (fld_of_and hm rfl)
  have z4 : place imm10l 1 &&& rowMask = 0 := place_and_mask _ _ _ (fld_of_and hm rfl)
  have z5 : place h 0 &&& rowMask = 0 := place_and_mask _ _ _ (fld_of_and hm rfl)
  simp only [encT32Blx, or_and_mask, hv, or_zero_bits, z0, z1, z2, z3, z4, z5]

theorem encT32Tb_reads (k : BitVec 4 → BitVec 4 → Instr) {value : Word} (hv : value &&& 0x000f000f = 0) (rn : BitVec 4) (rm : BitVec 4) :
    decT32Tb k (encT32Tb value rn rm) = k rn rm := by
  have z0 : fld value 16 4 = 0 := fld_of_and hv rfl
  have z1 : fld value 0 4 = 0 := fld_of_and hv rfl
  simp (disch := omega) only [decT32Tb, encT32Tb, fld_or, fld_place_same, zero_or_bits, or_zero_bits, fld_place_other, z0, z1]

theorem encT32Tb_hits {value rowMask : Word} (hv : value &&& rowMask = value) (hm : rowMask &&& 0x000f000f = 0) (rn : BitVec 4) (rm : BitVec 4) :
    encT32Tb value rn rm &&& rowMask = value := by
  have z0 : place rn 16 &&& rowMask = 0 := place_and_mask _ _ _ (fld_of_and hm rfl)
  have z1 : place rm 0 &&& rowMask = 0 := place_and_mask _ _ _ (fld_of_and hm rfl)
  simp only [encT32Tb, or_and_mask, hv, or_zero_bits, z0, z1]

theorem encT32ModimmCmp_reads (k : BitVec 1 → BitVec 4 → BitVec 3 → BitVec 8 → Instr) {value : Word} (hv : value &&& 0x040f70ff = 0) (i1 : BitVec 1) (rn : BitVec 4) (imm3 : BitVec 3) (imm8 : BitVec 8) :
    decT32ModimmCmp k (encT32ModimmCmp value i1 rn imm3 imm8) = k i1 rn imm3 imm8 := by
  have z0 : fld value 26 1 = 0 := fld_of_and hv rfl
  have z1 : fld value 16 4 = 0 := fld_of_and hv rfl
  have z2 : fld value 12 3 = 0 := fld_of_and hv rfl
  have z3 : fld value 0 8 = 0 := fld_of_and hv rfl
  simp (disch := omega) only [decT32ModimmCmp, encT32ModimmCmp, fld_or, fld_place_same, zero_or_bits, or_zero_bits, fld_place_other, z0, z1, z2, z3]

theorem encT32ModimmCmp_hits {value rowMask : Word} (hv : value &&& rowMask = value) (hm : rowMask &&& 0x040f70ff = 0) (i1 : BitVec 1) (rn : BitVec 4) (imm3 : BitVec 3) (imm8 : BitVec 8) :
    encT32ModimmCmp value i1 rn imm3 imm8 &&& rowMask = value := by
  have z0 : place i1 26 &&& rowMask = 0 := place_and_mask _ _ _ (fld_of_and hm rfl)
  have z1 : place rn 16 &&& rowMask = 0 := place_and_mask _ _ _ (fld_of_and hm rfl)
  have z2 : place imm3 12 &&& rowMask = 0 := place_and_mask _ _ _ (fld_of_and hm rfl)
  have z3 : place imm8 0 &&& rowMask = 0 := place_and_mask _ _ _ (fld_of_and hm rfl)
  simp only [encT32ModimmCmp, or_and_mask, hv, or_zero_bits, z0, z1, z2, z3]

theorem encT32DpRegCmp_reads (k : BitVec 4 → BitVec 3 → BitVec 2 → BitVec 2 → BitVec 4 → Instr) {value : Word} (hv : value &&& 0x000f70ff = 0) (rn : BitVec 4) (imm3 : BitVec 3) (imm2 : BitVec 2) (ty : BitVec 2) (rm : BitVec 4) :
    decT32DpRegCmp k (encT32DpRegCmp value rn imm3 imm2 ty rm) = k rn imm3 imm2 ty rm := by
  have z0 : fld value 16 4 = 0 := fld_of_and hv rfl
  have z1 : fld value 12 3 = 0 := fld_of_and hv rfl
  have z2 : fld value 6 2 = 0 := fld_of_and hv rfl
  have z3 : fld value 4 2 = 0 := fld_of_and hv rfl
  have z4 : fld value 0 4 = 0 := fld_of_and hv rfl
  simp (disch := omega) only [decT32DpRegCmp, encT32DpRegCmp, fld_or, fld_place_same, zero_or_bits, or_zero_bits, fld_place_other, z0, z1, z2, z3, z4]

theorem encT32DpRegCmp_hits {value rowMask : Word} (hv : value &&& rowMask = value) (hm : rowMask &&& 0x000f70ff = 0) (rn : BitVec 4) (imm3 : BitVec 3) (imm2 : BitVec 2) (ty : BitVec 2) (rm : BitVec 4) :
    encT32DpRegCmp value rn imm3 imm2 ty rm &&& rowMask = value := by
  have z0 : place rn 16 &&& rowMask = 0 := place_and_mask _ _ _ (fld_of_and hm rfl)
  have z1 : place imm3 12 &&& rowMask = 0 := place_and_mask _ _ _ (fld_of_and hm rfl)
  have z2 : place imm2 6 &&& rowMask = 0 := place_and_mask _ _ _ (fld_of_and hm rfl)
  have z3 : place ty 4 &&& rowMask = 0 := place_and_mask _ _ _ (fld_of_and hm rfl)
  have z4 : place rm 0 &&& rowMask = 0 := place_and_mask _ _ _ (fld_of_and hm rfl)
  simp only [encT32DpRegCmp, or_and_mask, hv, or_zero_bits, z0, z1, z2, z3, z4]

theorem encT32Modimm_reads (k : BitVec 1 → Bool → BitVec 4 → BitVec 3 → BitVec 4 → BitVec 8 → Instr) {value : Word} (hv : value &&& 0x041f7fff = 0) (i1 : BitVec 1) (setS : Bool) (rn : BitVec 4) (imm3 : BitVec 3) (rd : BitVec 4) (imm8 : BitVec 8) :
    decT32Modimm k (encT32Modimm value i1 setS rn imm3 rd imm8) = k i1 setS rn imm3 rd imm8 := by
  have z0 : fld value 26 1 = 0 := fld_of_and hv rfl
  have z1 : value.getLsbD 20 = false := getLsbD_of_and hv rfl
  have z2 : fld value 16 4 = 0 := fld_of_and hv rfl
  have z3 : fld value 12 3 = 0 := fld_of_and hv rfl
  have z4 : fld value 8 4 = 0 := fld_of_and hv rfl
  have z5 : fld value 0 8 = 0 := fld_of_and hv rfl
  simp (disch := omega) only [decT32Modimm, encT32Modimm, fld_or, fld_place_same, zero_or_bits, or_zero_bits, fld_place_other, fld_flag_other, BitVec.getLsbD_or, getLsbD_flag_same, Bool.false_or, Bool.or_false, getLsbD_place_other, z0, z1, z2, z3, z4, z5]

theorem encT32Modimm_hits {value rowMask : Word} (hv : value &&& rowMask = value) (hm : rowMask &&& 0x041f7fff = 0) (i1 : BitVec 1) (setS : Bool) (rn : BitVec 4) (imm3 : BitVec 3) (rd : BitVec 4) (imm8 : BitVec 8) :
    encT32Modimm value i1 setS rn imm3 rd imm8 &&& rowMask = value := by
  have z0 : place i1 26 &&& rowMask = 0 := place_and_mask _ _ _ (fld_of_and hm rfl)
  have z1 : flag setS 20 &&& rowMask = 0 := flag_and_mask _ _ _ (fld_of_and hm rfl)
  have z2 : place rn 16 &&& rowMask = 0 := place_and_mask _ _ _ (fld_of_and hm rfl)
  have z3 : place imm3 12 &&& rowMask = 0 := place_and_mask _ _ _ (fld_of_and hm rfl)
  have z4 : place rd 8 &&& rowMask = 0 := place_and_mask _ _ _ (fld_of_and hm rfl)
  have z5 : place imm8 0 &&& rowMask = 0 := place_and_mask _ _ _ (fld_of_and hm rfl)
  simp only [encT32Modimm, or_and_mask, hv, or_zero_bits, z0, z1, z2, z3, z4, z5]

theorem encT32DpReg_reads (k : Bool → BitVec 4 → BitVec 3 → BitVec 4 → BitVec 2 → BitVec 2 → BitVec 4 → Instr) {value : Word} (hv : value &&& 0x001f7fff = 0) (setS : Bool) (rn : BitVec 4) (imm3 : BitVec 3) (rd : BitVec 4) (imm2 : BitVec 2) (ty : BitVec 2) (rm : BitVec 4) :
    decT32DpReg k (encT32DpReg value setS rn imm3 rd imm2 ty rm) = k setS rn imm3 rd imm2 ty rm := by
  have z0 : value.getLsbD 20 = false := getLsbD_of_and hv rfl
  have z1 : fld value 16 4 = 0 := fld_of_and hv rfl
  have z2 : fld value 12 3 = 0 := fld_of_and hv rfl
  have z3 : fld value 8 4 = 0 := fld_of_and hv rfl
  have z4 : fld value 6 2 = 0 := fld_of_and hv rfl
  have z5 : fld value 4 2 = 0 := fld_of_and hv rfl
  have z6 : fld value 0 4 = 0 := fld_of_and hv rfl
  simp (disch := omega) only [decT32DpReg, encT32DpReg, fld_or, fld_place_same, zero_or_bits, or_zero_bits, fld_place_other, fld_flag_other, BitVec.getLsbD_or, getLsbD_flag_same, Bool.false_or, Bool.or_false, getLsbD_place_other, z0, z1, z2, z3, z4, z5, z6]

theorem encT32DpReg_hits {value rowMask : Word} (hv : value &&& rowMask = value) (hm : rowMask &&& 0x001f7fff = 0) (setS : Bool) (rn : BitVec 4) (imm3 : BitVec 3) (rd : BitVec 4) (imm2 : BitVec 2) (ty : BitVec 2) (rm : BitVec 4) :
    encT32DpReg value setS rn imm3 rd imm2 ty rm &&& rowMask = value := by
  have z0 : flag setS 20 &&& rowMask = 0 := flag_and_mask _ _ _ (fld_of_and hm rfl)
  have z1 : place rn 16 &&& rowMask = 0 := place_and_mask _ _ _ (fld_of_and hm rfl)
  have z2 : place imm3 12 &&& rowMask = 0 := place_and_mask _ _ _ (fld_of_and hm rfl)
  have z3 : place rd 8 &&& rowMask = 0 := place_and_mask _ _ _ (fld_of_and hm rfl)
  have z4 : place imm2 6 &&& rowMask = 0 := place_and_mask _ _ _ (fld_of_and hm rfl)
  have z5 : place ty 4 &&& rowMask = 0 := place_and_mask _ _ _ (fld_of_and hm rfl)
  have z6 : place rm 0 &&& rowMask = 0 := place_and_mask _ _ _ (fld_of_and hm rfl)
  simp only [encT32DpReg, or_and_mask, hv, or_zero_bits, z0, z1, z2, z3, z4, z5, z6]

theorem encT32Plain12_reads (k : BitVec 1 → BitVec 4 → BitVec 3 → BitVec 4 → BitVec 8 → Instr) {value : Word} (hv : value &&& 0x040f7fff = 0) (i1 : BitVec 1) (rn : BitVec 4) (imm3 : BitVec 3) (rd : BitVec 4) (imm8 : BitVec 8) :
    decT32Plain12 k (encT32Plain12 value i1 rn imm3 rd imm8) = k i1 rn imm3 rd imm8 := by
  have z0 : fld value 26 1 = 0 := fld_of_and hv rfl
  have z1 : fld value 16 4 = 0 := fld_of_and hv rfl
  have z2 : fld value 12 3 = 0 := fld_of_and hv rfl
  have z3 : fld value 8 4 = 0 := fld_of_and hv rfl
  have z4 : fld value 0 8 = 0 := fld_of_and hv rfl
  simp (disch := omega) only [decT32Plain12, encT32Plain12, fld_or, fld_place_same, zero_or_bits, or_zero_bits, fld_place_other, z0, z1, z2, z3, z4]

theorem encT32Plain12_hits {value rowMask : Word} (hv : value &&& rowMask = value) (hm : rowMask &&& 0x040f7fff = 0) (i1 : BitVec 1) (rn : BitVec 4) (imm3 : BitVec 3) (rd : BitVec 4) (imm8 : BitVec 8) :
    encT32Plain12 value i1 rn imm3 rd imm8 &&& rowMask = value := by
  have z0 : place i1 26 &&& rowMask = 0 := place_and_mask _ _ _ (fld_of_and hm rfl)
  have z1 : place rn 16 &&& rowMask = 0 := place_and_mask _ _ _ (fld_of_and hm rfl)
  have z2 : place imm3 12 &&& rowMask = 0 := place_and_mask _ _ _ (fld_of_and hm rfl)
  have z3 : place rd 8 &&& rowMask = 0 := place_and_mask _ _ _ (fld_of_and hm rfl)
  have z4 : place imm8 0 &&& rowMask = 0 := place_and_mask _ _ _ (fld_of_and hm rfl)
  simp only [encT32Plain12, or_and_mask, hv, or_zero_bits, z0, z1, z2, z3, z4]

theorem encT32ModimmMvn_reads (k : BitVec 1 → Bool → BitVec 3 → BitVec 4 → BitVec 8 → Instr) {value : Word} (hv : value &&& 0x04107fff = 0) (i1 : BitVec 1) (setS : Bool) (imm3 : BitVec 3) (rd : BitVec 4) (imm8 : BitVec 8) :
    decT32ModimmMvn k (encT32ModimmMvn value i1 setS imm3 rd imm8) = k i1 setS imm3 rd imm8 := by
  have z0 : fld value 26 1 = 0 := fld_of_and hv rfl
  have z1 : value.getLsbD 20 = false := getLsbD_of_and hv rfl
  have z2 : fld value 12 3 = 0 := fld_of_and hv rfl
  have z3 : fld value 8 4 = 0 := fld_of_and hv rfl
  have z4 : fld value 0 8 = 0 := fld_of_and hv rfl
  simp (disch := omega) only [decT32ModimmMvn, encT32ModimmMvn, fld_or, fld_place_same, zero_or_bits, or_zero_bits, fld_place_other, fld_flag_other, BitVec.getLsbD_or, getLsbD_flag_same, Bool.false_or, Bool.or_false, getLsbD_place_other, z0, z1, z2, z3, z4]

theorem encT32ModimmMvn_hits {value rowMask : Word} (hv : value &&& rowMask = value) (hm : rowMask &&& 0x04107fff = 0) (i1 : BitVec 1) (setS : Bool) (imm3 : BitVec 3) (rd : BitVec 4) (imm8 : BitVec 8) :
    encT32ModimmMvn value i1 setS imm3 rd imm8 &&& rowMask = value := by
  have z0 : place i1 26 &&& rowMask = 0 := place_and_mask _ _ _ (fld_of_and hm rfl)
  have z1 : flag setS 20 &&& rowMask = 0 := flag_and_mask _ _ _ (fld_of_and hm rfl)
  have z2 : place imm3 12 &&& rowMask = 0 := place_and_mask _ _ _ (fld_of_and hm rfl)
  have z3 : place rd 8 &&& rowMask = 0 := place_and_mask _ _ _ (fld_of_and hm rfl)
  have z4 : place imm8 0 &&& rowMask = 0 := place_and_mask _ _ _ (fld_of_and hm rfl)
  simp only [encT32ModimmMvn, or_and_mask, hv, or_zero_bits, z0, z1, z2, z3, z4]

theorem encT32DpRegMvn_reads (k : Bool → BitVec 3 → BitVec 4 → BitVec 2 → BitVec 2 → BitVec 4 → Instr) {value : Word} (hv : value &&& 0x00107fff = 0) (setS : Bool) (imm3 : BitVec 3) (rd : BitVec 4) (imm2 : BitVec 2) (ty : BitVec 2) (rm : BitVec 4) :
    decT32DpRegMvn k (encT32DpRegMvn value setS imm3 rd imm2 ty rm) = k setS imm3 rd imm2 ty rm := by
  have z0 : value.getLsbD 20 = false := getLsbD_of_and hv rfl
  have z1 : fld value 12 3 = 0 := fld_of_and hv rfl
  have z2 : fld value 8 4 = 0 := fld_of_and hv rfl
  have z3 : fld value 6 2 = 0 := fld_of_and hv rfl
  have z4 : fld value 4 2 = 0 := fld_of_and hv rfl
  have z5 : fld value 0 4 = 0 := fld_of_and hv rfl
  simp (disch := omega) only [decT32DpRegMvn, encT32DpRegMvn, fld_or, fld_place_same, zero_or_bits, or_zero_bits, fld_place_other, fld_flag_other, BitVec.getLsbD_or, getLsbD_flag_same, Bool.false_or, Bool.or_false, getLsbD_place_other, z0, z1, z2, z3, z4, z5]

theorem encT32DpRegMvn_hits {value rowMask : Word} (hv : value &&& rowMask = value) (hm : rowMask &&& 0x00107fff = 0) (setS : Bool) (imm3 : BitVec 3) (rd : BitVec 4) (imm2 : BitVec 2) (ty : BitVec 2) (rm : BitVec 4) :
    encT32DpRegMvn value setS imm3 rd imm2 ty rm &&& rowMask = value := by
  have z0 : flag setS 20 &&& rowMask = 0 := flag_and_mask _ _ _ (fld_of_and hm rfl)
  have z1 : place imm3 12 &&& rowMask = 0 := place_and_mask _ _ _ (fld_of_and hm rfl)
  have z2 : place rd 8 &&& rowMask = 0 := place_and_mask _ _ _ (fld_of_and hm rfl)
  have z3 : place imm2 6 &&& rowMask = 0 := place_and_mask _ _ _ (fld_of_and hm rfl)
  have z4 : place ty 4 &&& rowMask = 0 := place_and_mask _ _ _ (fld_of_and hm rfl)
  have z5 : place rm 0 &&& rowMask = 0 := place_and_mask _ _ _ (fld_of_and hm rfl)
  simp only [encT32DpRegMvn, or_and_mask, hv, or_zero_bits, z0, z1, z2, z3, z4, z5]

theorem encT32ShiftImm_reads (k : Bool → BitVec 3 → BitVec 4 → BitVec 2 → BitVec 4 → Instr) {value : Word} (hv : value &&& 0x00107fcf = 0) (setS : Bool) (imm3 : BitVec 3) (rd : BitVec 4) (imm2 : BitVec 2) (rm : BitVec 4) :
    decT32ShiftImm k (encT32ShiftImm value setS imm3 rd imm2 rm) = k setS imm3 rd imm2 rm := by
  have z0 : value.getLsbD 20 = false := getLsbD_of_and hv rfl
  have z1 : fld value 12 3 = 0 := fld_of_and hv rfl
  have z2 : fld value 8 4 = 0 := fld_of_and hv rfl
  have z3 : fld value 6 2 = 0 := fld_of_and hv rfl
  have z4 : fld value 0 4 = 0 := fld_of_and hv rfl
  simp (disch := omega) only [decT32ShiftImm, encT32ShiftImm, fld_or, fld_place_same, zero_or_bits, or_zero_bits, fld_place_other, fld_flag_other, BitVec.getLsbD_or, getLsbD_flag_same, Bool.false_or, Bool.or_false, getLsbD_place_other, z0, z1, z2, z3, z4]

theorem encT32ShiftImm_hits {value rowMask : Word} (hv : value &&& rowMask = value) (hm : rowMask &&& 0x00107fcf = 0) (setS : Bool) (imm3 : BitVec 3) (rd : BitVec 4) (imm2 : BitVec 2) (rm : BitVec 4) :
    encT32ShiftImm value setS imm3 rd imm2 rm &&& rowMask = value := by
  have z0 : flag setS 20 &&& rowMask = 0 := flag_and_mask _ _ _ (fld_of_and hm rfl)
  have z1 : place imm3 12 &&& rowMask = 0 := place_and_mask _ _ _ (fld_of_and hm rfl)
  have z2 : place rd 8 &&& rowMask = 0 := place_and_mask _ _ _ (fld_of_and hm rfl)
  have z3 : place imm2 6 &&& rowMask = 0 := place_and_mask _ _ _ (fld_of_and hm rfl)
  have z4 : place rm 0 &&& rowMask = 0 := place_and_mask _ _ _ (fld_of_and hm rfl)
  simp only [encT32ShiftImm, or_and_mask, hv, or_zero_bits, z0, z1, z2, z3, z4]

theorem encT32Rrx_reads (k : Bool → BitVec 4 → BitVec 4 → Instr) {value : Word} (hv : value &&& 0x00100f0f = 0) (setS : Bool) (rd : BitVec 4) (rm : BitVec 4) :
    decT32Rrx k (encT32Rrx value setS rd rm) = k setS rd rm := by
  have z0 : value.getLsbD 20 = false := getLsbD_of_and hv rfl
  have z1 : fld value 8 4 = 0 := fld_of_and hv rfl
  have z2 : fld value 0 4 = 0 := fld_of_and hv rfl
  simp (disch := omega) only [decT32Rrx, encT32Rrx, fld_or, fld_place_same, zero_or_bits, or_zero_bits, fld_place_other, fld_flag_other, BitVec.getLsbD_or, getLsbD_flag_same, Bool.false_or, Bool.or_false, getLsbD_place_other, z0, z1, z2]

theorem encT32Rrx_hits {value rowMask : Word} (hv : value &&& rowMask = value) (hm : rowMask &&& 0x00100f0f = 0) (setS : Bool) (rd : BitVec 4) (rm : BitVec 4) :
    encT32Rrx value setS rd rm &&& rowMask = value := by
  have z0 : flag setS 20 &&& rowMask = 0 := flag_and_mask _ _ _ (fld_of_and hm rfl)
  have z1 : place rd 8 &&& rowMask = 0 := place_and_mask _ _ _ (fld_of_and hm rfl)
  have z2 : place rm 0 &&& rowMask = 0 := place_and_mask _ _ _ (fld_of_and hm rfl)
  simp only [encT32Rrx, or_and_mask, hv, or_zero_bits, z0, z1, z2]

theorem encT32ShiftReg_reads (k : Bool → BitVec 4 → BitVec 4 → BitVec 4 → Instr) {value : Word} (hv : value &&& 0x001f0f0f = 0) (setS : Bool) (rn : BitVec 4) (rd : BitVec 4) (rm : BitVec 4) :
    decT32ShiftReg k (encT32ShiftReg value setS rn rd rm) = k setS rn rd rm := by
  have z0 : value.getLsbD 20 = false := getLsbD_of_and hv rfl
  have z1 : fld value 16 4 = 0 := fld_of_and hv rfl
  have z2 : fld value 8 4 = 0 := fld_of_and hv rfl
  have z3 : fld value 0 4 = 0 := fld_of_and hv rfl
  simp (disch := omega) only [decT32ShiftReg, encT32ShiftReg, fld_or, fld_place_same, zero_or_bits, or_zero_bits, fld_place_other, fld_flag_other, BitVec.getLsbD_or, getLsbD_flag_same, Bool.false_or, Bool.or_false, getLsbD_place_other, z0, z1, z2, z3]

theorem encT32ShiftReg_hits {value rowMask : Word} (hv : value &&& rowMask = value) (hm : rowMask &&& 0x001f0f0f = 0) (setS : Bool) (rn : BitVec 4) (rd : BitVec 4) (rm : BitVec 4) :
    encT32ShiftReg value setS rn rd rm &&& rowMask = value := by
  have z0 : flag setS 20 &&& rowMask = 0 := flag_and_mask _ _ _ (fld_of_and hm rfl)
  have z1 : place rn 16 &&& rowMask = 0 := place_and_mask _ _ _ (fld_of_and hm rfl)
  have z2 : place rd 8 &&& rowMask = 0 := place_and_mask _ _ _ (fld_of_and hm rfl)
  have z3 : place rm 0 &&& rowMask = 0 := place_and_mask _ _ _ (fld_of_and hm rfl)
  simp only [encT32ShiftReg, or_and_mask, hv, or_zero_bits, z0, z1, z2, z3]

theorem encT32Ldm_reads (k : Bool → BitVec 4 → Bool → Bool → BitVec 13 → Instr) {value : Word} (hv : value &&& 0x002fdfff = 0) (w : Bool) (rn : BitVec 4) (p : Bool) (m : Bool) (regs : BitVec 13) :
    decT32Ldm k (encT32Ldm value w rn p m regs) = k w rn p m regs := by
  have z0 : value.getLsbD 21 = false := getLsbD_of_and hv rfl
  have z1 : fld value 16 4 = 0 := fld_of_and hv rfl
  have z2 : value.getLsbD 15 = false := getLsbD_of_and hv rfl
  have z3 : value.getLsbD 14 = false := getLsbD_of_and hv rfl
  have z4 : fld value 0 13 = 0 := fld_of_and hv rfl
  simp (disch := omega) only [decT32Ldm, encT32Ldm, fld_or, fld_place_same, zero_or_bits, or_zero_bits, fld_place_other, fld_flag_other, BitVec.getLsbD_or, getLsbD_flag_same, Bool.false_or, Bool.or_false, getLsbD_flag_other, getLsbD_place_other, z0, z1, z2, z3, z4]

theorem encT32Ldm_hits {value rowMask : Word} (hv : value &&& rowMask = value) (hm : rowMask &&& 0x002fdfff = 0) (w : Bool) (rn : BitVec 4) (p : Bool) (m : Bool) (regs : BitVec 13) :
    encT32Ldm value w rn p m regs &&& rowMask = value := by
  have z0 : flag w 21 &&& rowMask = 0 := flag_and_mask _ _ _ (fld_of_and hm rfl)
  have z1 : place rn 16 &&& rowMask = 0 := place_and_mask _ _ _ (fld_of_and hm rfl)
  have z2 : flag p 15 &&& rowMask = 0 := flag_and_mask _ _ _ (fld_of_and hm rfl)
  have z3 : flag m 14 &&& rowMask = 0 := flag_and_mask _ _ _ (fld_of_and hm rfl)
  have z4 : place regs 0 &&& rowMask = 0 := place_and_mask _ _ _ (fld_of_and hm rfl)
  simp only [encT32Ldm, or_and_mask, hv, or_zero_bits, z0, z1, z2, z3, z4]

theorem encT32LdmStore_reads (k : Bool → BitVec 4 → Bool → BitVec 13 → Instr) {value : Word} (hv : value &&& 0x002f5fff = 0) (w : Bool) (rn : BitVec 4) (m : Bool) (regs : BitVec 13) :
    decT32LdmStore k (encT32LdmStore value w rn m regs) = k w rn m regs := by
  have z0 : value.getLsbD 21 = false := getLsbD_of_and hv rfl
  have z1 : fld value 16 4 = 0 := fld_of_and hv rfl
  have z2 : value.getLsbD 14 = false := getLsbD_of_and hv rfl
  have z3 : fld value 0 13 = 0 := fld_of_and hv rfl
  simp (disch := omega) only [decT32LdmStore, encT32LdmStore, fld_or, fld_place_same, zero_or_bits, or_zero_bits, fld_place_other, fld_flag_other, BitVec.getLsbD_or, getLsbD_flag_same, Bool.false_or, Bool.or_false, getLsbD_flag_other, getLsbD_place_other, z0, z1, z2, z3]

theorem encT32LdmStore_hits {value rowMask : Word} (hv : value &&& rowMask = value) (hm : rowMask &&& 0x002f5fff = 0) (w : Bool) (rn : BitVec 4) (m : Bool) (regs : BitVec 13) :
    encT32LdmStore value w rn m regs &&& rowMask = value := by
  have z0 : flag w 21 &&& rowMask = 0 := flag_and_mask _ _ _ (fld_of_and hm rfl)
  have z1 : place rn 16 &&& rowMask = 0 := place_and_mask _ _ _ (fld_of_and hm rfl)
  have z2 : flag m 14 &&& rowMask = 0 := flag_and_mask _ _ _ (fld_of_and hm rfl)
  have z3 : place regs 0 &&& rowMask = 0 := place_and_mask _ _ _ (fld_of_and hm rfl)
  simp only [encT32LdmStore, or_and_mask, hv, or_zero_bits, z0, z1, z2, z3]

theorem encT32LsLit_reads (k : Bool → BitVec 4 → BitVec 12 → Instr) {value : Word} (hv : value &&& 0x0080ffff = 0) (u : Bool) (rt : BitVec 4) (imm12 : BitVec 12) :
    decT32LsLit k (encT32LsLit value u rt imm12) = k u rt imm12 := by
  have z0 : value.getLsbD 23 = false := getLsbD_of_and hv rfl
  have z1 : fld value 12 4 = 0 := fld_of_and hv rfl
  have z2 : fld value 0 12 = 0 := fld_of_and hv rfl
  simp (disch := omega) only [decT32LsLit, encT32LsLit, fld_or, fld_place_same, zero_or_bits, or_zero_bits, fld_place_other, fld_flag_other, BitVec.getLsbD_or, getLsbD_flag_same, Bool.false_or, Bool.or_false, getLsbD_place_other, z0, z1, z2]

theorem encT32LsLit_hits {value rowMask : Word} (hv : value &&& rowMask = value) (hm : rowMask &&& 0x0080ffff = 0) (u : Bool) (rt : BitVec 4) (imm12 : BitVec 12) :
    encT32LsLit value u rt imm12 &&& rowMask = value := by
  have z0 : flag u 23 &&& rowMask = 0 := flag_and_mask _ _ _ (fld_of_and hm rfl)
  have z1 : place rt 12 &&& rowMask = 0 := place_and_mask _ _ _ (fld_of_and hm rfl)
  have z2 : place imm12 0 &&& rowMask = 0 := place_and_mask _ _ _ (fld_of_and hm rfl)
  simp only [encT32LsLit, or_and_mask, hv, or_zero_bits, z0, z1, z2]

theorem encT32LsImm12_reads (k : BitVec 4 → BitVec 4 → BitVec 12 → Instr) {value : Word} (hv : value &&& 0x000fffff = 0) (rn : BitVec 4) (rt : BitVec 4) (imm12 : BitVec 12) :
    decT32LsImm12 k (encT32LsImm12 value rn rt imm12) = k rn rt imm12 := by
  have z0 : fld value 16 4 = 0 := fld_of_and hv rfl
  have z1 : fld value 12 4 = 0 := fld_of_and hv rfl
  have z2 : fld value 0 12 = 0 := fld_of_and hv rfl
  simp (disch := omega) only [decT32LsImm12, encT32LsImm12, fld_or, fld_place_same, zero_or_bits, or_zero_bits, fld_place_other, z0, z1, z2]

theorem encT32LsImm12_hits {value rowMask : Word} (hv : value &&& rowMask = value) (hm : rowMask &&& 0x000fffff = 0) (rn : BitVec 4) (rt : BitVec 4) (imm12 : BitVec 12) :
    encT32LsImm12 value rn rt imm12 &&& rowMask = value := by
  have z0 : place rn 16 &&& rowMask = 0 := place_and_mask _ _ _ (fld_of_and hm rfl)
  have z1 : place rt 12 &&& rowMask = 0 := place_and_mask _ _ _ (fld_of_and hm rfl)
  have z2 : place imm12 0 &&& rowMask = 0 := place_and_mask _ _ _ (fld_of_and hm rfl)
  simp only [encT32LsImm12, or_and_mask, hv, or_zero_bits, z0, z1, z2]

theorem encT32LsImm8_reads (k : BitVec 4 → BitVec 4 → Bool → Bool → Bool → BitVec 8 → Instr) {value : Word} (hv : value &&& 0x000ff7ff = 0) (rn : BitVec 4) (rt : BitVec 4) (p : Bool) (u : Bool) (w : Bool) (imm8 : BitVec 8) :
    decT32LsImm8 k (encT32LsImm8 value rn rt p u w imm8) = k rn rt p u w imm8 := by
  have z0 : fld value 16 4 = 0 := fld_of_and hv rfl
  have z1 : fld value 12 4 = 0 := fld_of_and hv rfl
  have z2 : value.getLsbD 10 = false := getLsbD_of_and hv rfl
  have z3 : value.getLsbD 9 = false := getLsbD_of_and hv rfl
  have z4 : value.getLsbD 8 = false := getLsbD_of_and hv rfl
  have z5 : fld value 0 8 = 0 := fld_of_and hv rfl
  simp (disch := omega) only [decT32LsImm8, encT32LsImm8, fld_or, fld_place_same, zero_or_bits, or_zero_bits, fld_place_other, fld_flag_other, BitVec.getLsbD_or, getLsbD_flag_same, Bool.false_or, Bool.or_false, getLsbD_flag_other, getLsbD_place_other, z0, z1, z2, z3, z4, z5]

theorem encT32LsImm8_hits {value rowMask : Word} (hv : value &&& rowMask = value) (hm : rowMask &&& 0x000ff7ff = 0) (rn : BitVec 4) (rt : BitVec 4) (p : Bool) (u : Bool) (w : Bool) (imm8 : BitVec 8) :
    encT32LsImm8 value rn rt p u w imm8 &&& rowMask = value := by
  have z0 : place rn 16 &&& rowMask = 0 := place_and_mask _ _ _ (fld_of_and hm rfl)
  have z1 : place rt 12 &&& rowMask = 0 := place_and_mask _ _ _ (fld_of_and hm rfl)
  have z2 : flag p 10 &&& rowMask = 0 := flag_and_mask _ _ _ (fld_of_and hm rfl)
  have z3 : flag u 9 &&& rowMask = 0 := flag_and_mask _ _ _ (fld_of_and hm rfl)
  have z4 : flag w 8 &&& rowMask = 0 := flag_and_mask _ _ _ (fld_of_and hm rfl)
  have z5 : place imm8 0 &&& rowMask = 0 := place_and_mask _ _ _ (fld_of_and hm rfl)
  simp only [encT32LsImm8, or_and_mask, hv, or_zero_bits, z0, z1, z2, z3, z4, z5]

theorem encT32LsReg_reads (k : BitVec 4 → BitVec 4 → BitVec 2 → BitVec 4 → Instr) {value : Word} (hv : value &&& 0x000ff03f = 0) (rn : BitVec 4) (rt : BitVec 4) (imm2 : BitVec 2) (rm : BitVec 4) :
    decT32LsReg k (encT32LsReg value rn rt imm2 rm) = k rn rt imm2 rm := by
  have z0 : fld value 16 4 = 0 := fld_of_and hv rfl
  have z1 : fld value 12 4 = 0 := fld_of_and hv rfl
  have z2 : fld value 4 2 = 0 := fld_of_and hv rfl
  have z3 : fld value 0 4 = 0 := fld_of_and hv rfl
  simp (disch := omega) only [decT32LsReg, encT32LsReg, fld_or, fld_place_same, zero_or_bits, or_zero_bits, fld_place_other, z0, z1, z2, z3]

theorem encT32LsReg_hits {value rowMask : Word} (hv : value &&& rowMask = value) (hm : rowMask &&& 0x000ff03f = 0) (rn : BitVec 4) (rt : BitVec 4) (imm2 : BitVec 2) (rm : BitVec 4) :
    encT32LsReg value rn rt imm2 rm &&& rowMask = value := by
  have z0 : place rn 16 &&& rowMask = 0 := place_and_mask _ _ _ (fld_of_and hm rfl)
  have z1 : place rt 12 &&& rowMask = 0 := place_and_mask _ _ _ (fld_of_and hm rfl)
  have z2 : place imm2 4 &&& rowMask = 0 := place_and_mask _ _ _ (fld_of_and hm rfl)
  have z3 : place rm 0 &&& rowMask = 0 := place_and_mask _ _ _ (fld_of_and hm rfl)
  simp only [encT32LsReg, or_and_mask, hv, or_zero_bits, z0, z1, z2, z3]

end Sys2Proof
end

