-- ==== Sys2Proof/Laws/Templates.lean ====
section
/-! SUPPORT. What the common templates of the instruction rules do where the host refuses nothing: data processing,
compares, shifts, branches, single loads and stores. Each lemma gives the end of the handler and everything it changed, so a
proof about an instruction cites one lemma and unfolds no operation. -/

namespace Sys2Proof.Machine

/-! ## Reading operands: nothing changes but the trace -/

/-- `h` only reads: it ends with `v` and changes the trace alone. -/
def Reads {α : Type} (h : Handler α) (s : State) (v : α) : Prop := ∃ tr, h s = .ok v { s with trace := tr }

theorem Reads.here {α : Type} {h : Handler α} {s : State} {v : α} (e : h s = .ok v s) : Reads h s v := ⟨s.trace, e⟩

/-- A reading handler in front of another: the rest runs on the same state but for the trace. -/
theorem Reads.bind {α β : Type} {h : Handler α} {k : α → Handler β} {s : State} {v : α} (e : Reads h s v) :
    ∃ tr, (h >>= k) s = k v { s with trace := tr } := by
  obtain ⟨tr, e⟩ := e
  exact ⟨tr, by simp [e]⟩

theorem Reads.then {α β : Type} {h : Handler α} {k : α → Handler β} {s : State} {v : α} {w : β} (e : Reads h s v)
    (f : ∀ tr, Reads (k v) { s with trace := tr } w) : Reads (h >>= k) s w := by
  obtain ⟨tr, e⟩ := e.bind (k := k)
  obtain ⟨tr', f⟩ := f tr
  exact ⟨tr', e.trans f⟩

theorem readReg_reads {s : State} (h : s.served) (n : RegNum) : Reads (readReg n) s (s.operand n) := by
  rw [Reads, readReg_served h]
  unfold State.afterRead
  split
  · exact ⟨_, rfl⟩
  · exact ⟨_, rfl⟩

theorem carryIn_reads (s : State) : Reads carryIn s (flagC s.inst.cpsr) := .here rfl

/-- The value and carry of a second operand (43_dp_arith.md rule R221). -/
def Operand2.valueIn (s : State) : Operand2 → Word × Bool
  | .imm v c => (v, c)
  | .reg m ty amount => shiftC (s.operand m) ty amount (flagC s.inst.cpsr)

theorem Operand2.value_reads {s : State} (h : s.served) (o : Operand2) : Reads o.value s (o.valueIn s) := by
  cases o with
  | imm v c => exact .here rfl
  | reg m ty amount => exact (readReg_reads h m).then fun tr => .here rfl

/-- The first operand, zero where there is none. -/
def firstIn (s : State) : Option RegNum → Word
  | none => 0
  | some n => s.operand n

theorem firstOperand_reads {s : State} (h : s.served) (n : Option RegNum) : Reads (firstOperand n) s (firstIn s n) := by
  cases n with
  | none => exact .here rfl
  | some n => exact readReg_reads h n

theorem armImm_eq (imm12 : BitVec 12) (s : State) :
    armImm imm12 s = .ok (.imm (armExpandImmC imm12 (flagC s.inst.cpsr)).1 (armExpandImmC imm12 (flagC s.inst.cpsr)).2) s := rfl

theorem plainImm_eq (v : Word) (s : State) : plainImm v s = .ok (.imm v (flagC s.inst.cpsr)) s := rfl

theorem thumbImm_some {i1 : BitVec 1} {imm3 : BitVec 3} {imm8 : BitVec 8} {s : State} {r : Word × Bool}
    (h : thumbExpandImmC (i1 ++ imm3 ++ imm8) (flagC s.inst.cpsr) = some r) :
    thumbImm i1 imm3 imm8 s = .ok (.imm r.1 r.2) s := by
  simp [thumbImm, h]

theorem thumbImm_none {i1 : BitVec 1} {imm3 : BitVec 3} {imm8 : BitVec 8} {s : State}
    (h : thumbExpandImmC (i1 ++ imm3 ++ imm8) (flagC s.inst.cpsr) = none) :
    thumbImm i1 imm3 imm8 s = .error .unpredictableOperands s := by
  simp [thumbImm, h]

/-! ## Sequencing -/

theorem bind_ok {α β : Type} {h : Handler α} {k : α → Handler β} {s t : State} {v : α} (e : h s = .ok v t) :
    (h >>= k) s = k v t := by
  simp [e]

theorem bind_error {α β : Type} {h : Handler α} {k : α → Handler β} {s t : State} {f : Failure} (e : h s = .error f t) :
    (h >>= k) s = .error f t := by
  simp [e]

theorem unpredictableIf_pass {α : Type} {b : Bool} {k : Unit → Handler α} {s : State} (h : b = false) :
    (unpredictableIf b >>= k) s = k () s := by
  subst h; simp

theorem unpredictableIf_stop {α : Type} {b : Bool} {k : Unit → Handler α} {s : State} (h : b = true) :
    (unpredictableIf b >>= k) s = .error .unpredictableOperands s := by
  subst h; simp

theorem notInSubsetIf_pass {α : Type} {b : Bool} {k : Unit → Handler α} {s : State} (h : b = false) :
    (notInSubsetIf b >>= k) s = k () s := by
  subst h; simp

theorem notInSubsetIf_stop {α : Type} {b : Bool} {k : Unit → Handler α} {s : State} (h : b = true) :
    (notInSubsetIf b >>= k) s = .error .unsupportedEncoding s := by
  subst h; simp

theorem inIT_pass {α : Type} {k : Bool → Handler α} {s : State} : (inIT >>= k) s = k s.inITBlock s := by simp
theorem inITNotLast_pass {α : Type} {k : Bool → Handler α} {s : State} :
    (inITNotLast >>= k) s = k (s.inITBlock && !s.lastInITBlock) s := by simp
theorem flagsOutsideIT_pass {α : Type} {k : Bool → Handler α} {s : State} :
    (flagsOutsideIT >>= k) s = k (!s.inITBlock) s := by simp
theorem archVersion_pass {α : Type} {k : Nat → Handler α} {s : State} : (archVersion >>= k) s = k s.arch.version s := by simp

theorem unpredictableInIT_pass {α : Type} {k : Unit → Handler α} {s : State} (h : s.inITBlock = false) :
    (unpredictableInIT >>= k) s = k () s := by
  simp [unpredictableInIT_eq, h]
theorem unpredictableInIT_stop {α : Type} {k : Unit → Handler α} {s : State} (h : s.inITBlock = true) :
    (unpredictableInIT >>= k) s = .error .unpredictableOperands s := by
  simp [unpredictableInIT_eq, h]
theorem unpredictableInITNotLast_pass {α : Type} {k : Unit → Handler α} {s : State}
    (h : (s.inITBlock && !s.lastInITBlock) = false) : (unpredictableInITNotLast >>= k) s = k () s := by
  simp only [handler_bind, unpredictableInITNotLast_eq, h, Bool.false_eq_true, if_false]
theorem unpredictableInITNotLast_stop {α : Type} {k : Unit → Handler α} {s : State}
    (h : (s.inITBlock && !s.lastInITBlock) = true) :
    (unpredictableInITNotLast >>= k) s = .error .unpredictableOperands s := by
  simp only [handler_bind, unpredictableInITNotLast_eq, h, if_true]

/-! ## Data processing -/

/-- Everything the template of rule R221 does for an instruction with a destination. -/
theorem dataProc_spec {s : State} (h : s.served) (op : AluOp) (d : RegNum) (n : Option RegNum) (o : Operand2) (setflags : Bool) :
    ∃ t, dataProc op d n o setflags s = .ok () t ∧
      ResultWritten s t d setflags (op.eval (firstIn s n) (o.valueIn s).1 (flagC s.inst.cpsr) (o.valueIn s).2) := by
  unfold dataProc
  obtain ⟨tr, e⟩ := (Operand2.value_reads h o).bind
  rw [e]; clear e
  obtain ⟨tr', e⟩ := (firstOperand_reads (s := { s with trace := tr }) h n).bind
  rw [e]; clear e
  obtain ⟨t, e, w⟩ := writeCoreRegOptionalFlags_spec (s := { s with trace := tr' }) h
    (resultContext d n o.isImm
      ((op.eval (firstIn s n) (o.valueIn s).1 (flagC s.inst.cpsr) (o.valueIn s).2).result - firstIn s n)) d setflags
    (op.eval (firstIn s n) (o.valueIn s).1 (flagC s.inst.cpsr) (o.valueIn s).2)
  exact ⟨t, e, w.1, w.2.1, w.2.2.1, w.2.2.2.1, ⟨w.2.2.2.2.1, w.2.2.2.2.2, w.2.2.2.2.3, w.2.2.2.2.4, w.2.2.2.2.5, w.2.2.2.2.6, w.2.2.2.2.7⟩⟩

/-- The change that a flag write alone makes (40_primitives.md rule R163). -/
def OnlyFlags (s t : State) (r : AluResult) : Prop :=
  FlagsWritten s t r ∧ SameCoreBut [] s t ∧ t.mem = s.mem ∧ SameExt s t ∧ SameBlock s t

/-- Everything the template of rule R221 does for a compare-class instruction. -/
theorem compare_spec {s : State} (h : s.served) (op : AluOp) (n : RegNum) (o : Operand2) :
    ∃ t, compare op n o s = .ok () t ∧
      OnlyFlags s t (op.eval (s.operand n) (o.valueIn s).1 (flagC s.inst.cpsr) (o.valueIn s).2) := by
  unfold compare
  obtain ⟨tr, e⟩ := (Operand2.value_reads h o).bind
  rw [e]; clear e
  obtain ⟨tr', e⟩ := (readReg_reads (s := { s with trace := tr }) h n).bind
  rw [e]; clear e
  have w := writeFlags_served (s := { s with trace := tr' }) h
    (op.eval (s.operand n) (o.valueIn s).1 (flagC s.inst.cpsr) (o.valueIn s).2).result
    (op.eval (s.operand n) (o.valueIn s).1 (flagC s.inst.cpsr) (o.valueIn s).2).carry
    (op.eval (s.operand n) (o.valueIn s).1 (flagC s.inst.cpsr) (o.valueIn s).2).overflow
  exact ⟨_, w, afterFlags_spec _ _, fun _ _ => rfl, rfl, fun _ => rfl, ⟨rfl, rfl, rfl, rfl, rfl, rfl, rfl⟩⟩

/-! ## Shifts -/

/-- Everything the immediate forms of rule R280 do. -/
theorem shiftImm_spec {s : State} (h : s.served) (d m : RegNum) (ty : SRType) (amount : Nat) (setflags : Bool) :
    ∃ t, shiftImm d m ty amount setflags s = .ok () t ∧
      ResultWritten s t d setflags
        (.ofLogic (shiftC (s.operand m) ty amount (flagC s.inst.cpsr)).1 (shiftC (s.operand m) ty amount (flagC s.inst.cpsr)).2) := by
  unfold shiftImm
  obtain ⟨tr, e⟩ := (readReg_reads h m).bind
  rw [e]; clear e
  obtain ⟨t, e, w⟩ := writeCoreRegOptionalFlags_spec (s := { s with trace := tr }) h .immediate d setflags
    (.ofLogic (shiftC (s.operand m) ty amount (flagC s.inst.cpsr)).1 (shiftC (s.operand m) ty amount (flagC s.inst.cpsr)).2)
  exact ⟨t, e, w.1, w.2.1, w.2.2.1, w.2.2.2.1, ⟨w.2.2.2.2.1, w.2.2.2.2.2, w.2.2.2.2.3, w.2.2.2.2.4, w.2.2.2.2.5, w.2.2.2.2.6, w.2.2.2.2.7⟩⟩

/-- Everything the register-controlled forms of rule R280 do. -/
theorem shiftReg_spec {s : State} (h : s.served) (d n m : RegNum) (ty : SRType) (setflags : Bool) :
    ∃ t, shiftReg d n m ty setflags s = .ok () t ∧
      ResultWritten s t d setflags
        (.ofLogic (shiftC (s.operand n) ty (s.operand m &&& 0xff).toNat (flagC s.inst.cpsr)).1
          (shiftC (s.operand n) ty (s.operand m &&& 0xff).toNat (flagC s.inst.cpsr)).2) := by
  unfold shiftReg
  obtain ⟨tr, e⟩ := (readReg_reads h m).bind
  rw [e]; clear e
  obtain ⟨tr', e⟩ := (readReg_reads (s := { s with trace := tr }) h n).bind
  rw [e]; clear e
  obtain ⟨t, e, w⟩ := writeCoreRegOptionalFlags_spec (s := { s with trace := tr' }) h .immediate d setflags
    (.ofLogic (shiftC (s.operand n) ty (s.operand m &&& 0xff).toNat (flagC s.inst.cpsr)).1
      (shiftC (s.operand n) ty (s.operand m &&& 0xff).toNat (flagC s.inst.cpsr)).2)
  exact ⟨t, e, w.1, w.2.1, w.2.2.1, w.2.2.2.1, ⟨w.2.2.2.2.1, w.2.2.2.2.2, w.2.2.2.2.3, w.2.2.2.2.4, w.2.2.2.2.5, w.2.2.2.2.6, w.2.2.2.2.7⟩⟩

/-! ## From handlers to instructions -/

theorem resultDone_of {i : Instr} {h : Handler Unit} {s t : State} {d : RegNum} {f : Bool} {r : AluResult}
    (e : exec i s = runHandler h s) (ht : h s = .ok () t) (w : ResultWritten s t d f r) : ResultDone i s d f r := by
  refine ⟨t.succeed, e.trans (runHandler_ok ht), rfl, w.1, w.2.1, fun x => ?_, w.2.2.2.1,
    ⟨w.2.2.2.2.1, w.2.2.2.2.2, w.2.2.2.2.3, w.2.2.2.2.4, w.2.2.2.2.5, w.2.2.2.2.6, w.2.2.2.2.7⟩⟩
  simp [w.2.2.1]

theorem flagsDone_of {i : Instr} {h : Handler Unit} {s t : State} {r : AluResult}
    (e : exec i s = runHandler h s) (ht : h s = .ok () t) (w : OnlyFlags s t r) : FlagsDone i s r := by
  refine ⟨t.succeed, e.trans (runHandler_ok ht), rfl, w.1, w.2.1, fun x => ?_, w.2.2.2.1,
    ⟨w.2.2.2.2.1, w.2.2.2.2.2, w.2.2.2.2.3, w.2.2.2.2.4, w.2.2.2.2.5, w.2.2.2.2.6, w.2.2.2.2.7⟩⟩
  simp [w.2.2.1]

/-- A completed handler whose property does not look at `FAULT` (60_exceptions.md rule R400). -/
theorem completes_of {i : Instr} {h : Handler Unit} {s t : State} {P : State → Prop}
    (e : exec i s = runHandler h s) (ht : h s = .ok () t) (hb : SameBlock s t) (hP : P t.succeed) : Completes i s P :=
  ⟨t.succeed, e.trans (runHandler_ok ht), rfl, ⟨hb.1, hb.2, hb.3, hb.4, hb.5, hb.6, hb.7⟩, hP⟩

theorem raises_of {i : Instr} {h : Handler Unit} {s t : State} {f : Failure}
    (e : exec i s = runHandler h s) (ht : h s = .error f t) : exec i s = .next (State.raise f t) :=
  e.trans (runHandler_error ht)

/-! ## Branches -/

/-- What a branch leaves alone but for the link register (46_branch.md). -/
structure BranchFrame (links : List RegNum) (s t : State) : Prop where
  block : SameBlock s t
  core : SameCoreBut (15 :: links) s t
  ext : SameExt s t
  mem : t.mem = s.mem

theorem PcWriteFrame.branch {s t : State} (h : PcWriteFrame s t) : BranchFrame [] s t :=
  ⟨h.block, h.core, h.ext, h.mem⟩

/-- Everything B does (R305). -/
theorem branchTo_spec {s : State} (h : s.served) (offset : Word) :
    ∃ t, branchTo offset s = .ok () t ∧ PcBranch s t (s.pcValue + offset) ∧ BranchFrame [] s t := by
  obtain ⟨t, e, p, f⟩ := branchWritePC_spec h .branch (s.pcValue + offset)
  exact ⟨t, e, p, f.branch⟩

/-- A link write before a branch (R306 to R308). -/
theorem afterLink_frame {s t : State} {v : Word} (f : PcWriteFrame (s.afterWrite .branch 14 v) t) :
    BranchFrame [14] s t ∧ t.getCore 14 = v := by
  refine ⟨⟨⟨f.block.1, f.block.2, f.block.3, f.block.4, f.block.5, f.block.6, f.block.7⟩, fun k hk => ?_, f.ext, f.mem⟩, ?_⟩
  · have h15 : k ≠ 15 := fun e => hk (by simp [e])
    have h14 : k ≠ 14 := fun e => hk (by simp [e])
    rw [f.core k (by simpa using h15), State.getCore_afterWrite, if_neg h14]
  · rw [f.core 14 (by decide), State.getCore_afterWrite_same]

/-- Everything BL does (R306). -/
theorem branchLink_spec {s : State} (h : s.served) (offset : Word) :
    ∃ t, branchLink offset s = .ok () t ∧ PcBranch s t (s.pcValue + offset) ∧ t.getCore 14 = s.linkAfter32 ∧
      BranchFrame [14] s t := by
  unfold branchLink
  simp only [handler_bind, handler_get, writeReg_served h]
  obtain ⟨t, e, p, f⟩ := branchWritePC_spec (s := s.afterWrite .branch 14 s.linkAfter32) h .branch (s.pcValue + offset)
  obtain ⟨g, l⟩ := afterLink_frame f
  exact ⟨t, e, p, l, g⟩

/-- A set change and a branch in the new set (R307). -/
def PcSwitch (s t : State) (set : InstrSet) (a : Word) : Prop := t.getCore 15 = maskPC (modeOf set) a ∧ SetSelected s t set

theorem selectThenBranch_spec {s : State} (h : s.served) (set : InstrSet) (ctx : Context) (a : Word) :
    ∃ t, (do selectInstrSet set; branchWritePC ctx a : Handler Unit) s = .ok () t ∧ PcSwitch s t set a ∧ PcWriteFrame s t := by
  obtain ⟨hs, hb, hc, he, hm, hd⟩ := afterSelect_spec s set
  refine ⟨(s.afterSelect set).afterWrite ctx 15 (maskPC (s.afterSelect set).mode a), ?_, ⟨?_, hs.1, hs.2⟩,
    ⟨⟨hb.1, hb.2, hb.3, hb.4, hb.5, hb.6, hb.7⟩, fun k hk => ?_, he, hm, hd, by simp⟩⟩
  · rw [bind_ok (selectInstrSet_served h set)]
    exact branchWritePC_served ((State.served_afterSelect set).2 h) ctx a
  · rw [State.getCore_afterWrite_same, hs.1]
  · have : k ≠ 15 := by simpa using hk
    rw [State.getCore_afterWrite, if_neg this, hc]

/-- Everything BLX (immediate) does (R307): the set changes to the other one. -/
theorem branchLinkExchange_spec {s : State} (h : s.served) (offset : Word) :
    ∃ t, branchLinkExchange offset s = .ok () t ∧
      (match s.inst.mode with
        | .arm => PcSwitch s t .thumb (s.pcValue + offset)
        | .thumb => PcSwitch s t .arm (align4 s.pcValue + offset)) ∧
      t.getCore 14 = s.linkAfter32 ∧ BranchFrame [14] s t := by
  unfold branchLinkExchange
  simp only [handler_bind, handler_get, writeReg_served h]
  cases s.inst.mode with
  | arm =>
    obtain ⟨t, e, p, f⟩ := selectThenBranch_spec (s := s.afterWrite .branch 14 s.linkAfter32) h .thumb .branch (s.pcValue + offset)
    obtain ⟨g, l⟩ := afterLink_frame f
    exact ⟨t, e, p, l, g⟩
  | thumb =>
    obtain ⟨t, e, p, f⟩ := selectThenBranch_spec (s := s.afterWrite .branch 14 s.linkAfter32) h .arm .branch (align4 s.pcValue + offset)
    obtain ⟨g, l⟩ := afterLink_frame f
    exact ⟨t, e, p, l, g⟩

/-- Everything BX does (R309). -/
theorem branchExchange_spec {s : State} (h : s.served) (m : RegNum) :
    ∃ t, branchExchange m s = .ok () t ∧ PcExchange s t (s.operand m) ∧ BranchFrame [] s t := by
  unfold branchExchange
  obtain ⟨tr, e⟩ := (readReg_reads h m).bind
  rw [e]
  obtain ⟨t, e, p, f⟩ := bxWritePC_spec (s := { s with trace := tr }) h .branch (s.operand m)
  exact ⟨t, e, p, ⟨⟨f.block.1, f.block.2, f.block.3, f.block.4, f.block.5, f.block.6, f.block.7⟩, f.core, f.ext, f.mem⟩⟩

/-- Everything BLX (register) does (R308): the target is read before LR is written. -/
theorem branchLinkExchangeReg_spec {s : State} (h : s.served) (m : RegNum) :
    ∃ t, branchLinkExchangeReg m s = .ok () t ∧ PcExchange s t (s.operand m) ∧ t.getCore 14 = s.linkAfter16 ∧
      BranchFrame [14] s t := by
  unfold branchLinkExchangeReg
  obtain ⟨tr, e⟩ := (readReg_reads h m).bind
  rw [e]
  have hs : ({ s with trace := tr } : State).served := h
  have hl : ({ s with trace := tr } : State).linkAfter16 = s.linkAfter16 := rfl
  simp only [handler_bind, handler_get, writeReg_served hs, hl]
  obtain ⟨t, e, p, f⟩ := bxWritePC_spec (s := ({ s with trace := tr } : State).afterWrite .branch 14 s.linkAfter16) h .branch (s.operand m)
  obtain ⟨g, l⟩ := afterLink_frame f
  exact ⟨t, e, p, l, ⟨⟨g.block.1, g.block.2, g.block.3, g.block.4, g.block.5, g.block.6, g.block.7⟩, g.core, g.ext, g.mem⟩⟩

/-- Everything CBZ and CBNZ do (R310, R311). -/
theorem compareBranch_spec {s : State} (h : s.served) (n : RegNum) (nonzero : Bool) (offset : Word) :
    ∃ t, compareBranch n nonzero offset s = .ok () t ∧ BranchFrame [] s t ∧
      if (s.operand n != 0) = nonzero then PcBranch s t (s.pcValue + offset)
      else t.getCore 15 = s.getCore 15 ∧ SameStatus s t := by
  unfold compareBranch
  obtain ⟨tr, e⟩ := (readReg_reads h n).bind
  rw [e]
  simp only [handler_ite]
  split
  · obtain ⟨t, e, p, f⟩ := branchTo_spec (s := { s with trace := tr }) h offset
    exact ⟨t, e, ⟨⟨f.block.1, f.block.2, f.block.3, f.block.4, f.block.5, f.block.6, f.block.7⟩, f.core, f.ext, f.mem⟩, p⟩
  · exact ⟨_, rfl, ⟨⟨rfl, rfl, rfl, rfl, rfl, rfl, rfl⟩, fun _ _ => rfl, fun _ => rfl, rfl⟩, rfl, rfl, rfl⟩

/-- Everything TBB and TBH do where the table entry is mapped (R312, R313). -/
theorem tableBranch_spec {s : State} (h : s.served) (n m : RegNum) (size scale : Nat) {v : DWord}
    (hv : Memory.readLE s.mem (s.operand n + s.operand m <<< scale) size = some v) :
    ∃ t, tableBranch n m size scale s = .ok () t ∧ PcBranch s t (s.pcValue + 2 * v.setWidth 32) ∧ BranchFrame [] s t := by
  unfold tableBranch
  obtain ⟨tr, e⟩ := (readReg_reads h n).bind
  rw [e]; clear e
  obtain ⟨tr', e⟩ := (readReg_reads (s := { s with trace := tr }) h m).bind
  rw [e]; clear e
  erw [bind_ok (memRead_served (s := { s with trace := tr' }) h .tableBranch hv)]
  obtain ⟨t, e, p, f⟩ := branchWritePC_spec (s := ({ s with trace := tr' } : State).note
    (.readMemory .tableBranch (s.operand n + s.operand m <<< scale) size v true)) h .tableBranch (s.pcValue + 2 * v.setWidth 32)
  exact ⟨t, e, p, ⟨⟨f.block.1, f.block.2, f.block.3, f.block.4, f.block.5, f.block.6, f.block.7⟩, f.core, f.ext, f.mem⟩⟩

/-- Everything SVC does (49_svc_driver.md rule R380). -/
theorem supervisorCall_spec {s : State} (h : s.served) (imm32 : Word) :
    supervisorCall imm32 s = .ok () (s.afterWrite (.supervisorCall imm32) 14 s.linkAfter16) := by
  simp [supervisorCall, writeReg_served h]

/-! ## Single loads and stores -/

/-- The base value of an address (48_load_store_single.md rule R350). -/
def AddrBase.valueIn (s : State) : AddrBase → Word
  | .reg n => s.operand n
  | .literal => align4 s.pcValue

theorem AddrBase.value_reads {s : State} (h : s.served) (b : AddrBase) : Reads b.value s (b.valueIn s) := by
  cases b with
  | reg n => exact readReg_reads h n
  | literal => exact .here rfl

/-- The offset value of an address (R350). -/
def AddrOffset.valueIn (s : State) : AddrOffset → Word
  | .imm v => v
  | .reg m ty amount => shift (s.operand m) ty amount (flagC s.inst.cpsr)

theorem AddrOffset.value_reads {s : State} (h : s.served) (o : AddrOffset) : Reads o.value s (o.valueIn s) := by
  cases o with
  | imm v => exact .here rfl
  | reg m ty amount => exact (readReg_reads h m).then fun tr => .here rfl

/-- The address and the written-back base of a form. -/
def AddrForm.addressIn (f : AddrForm) (s : State) : Word := f.address (f.base.valueIn s) (f.offset.valueIn s)

/-- The written-back base of a form, where it writes one back. -/
def AddrForm.writeback (f : AddrForm) (s : State) : Option (RegNum × Word) :=
  if f.wback then some (f.base.num, f.offsetAddr (f.base.valueIn s) (f.offset.valueIn s)) else none

theorem writebackBase_spec {s : State} (h : s.served) (f : AddrForm) (base offset : Word) :
    ∃ t, writebackBase f base offset s = .ok () t ∧
      (∀ b ∈ (if f.wback then some (f.base.num, f.offsetAddr base offset) else none), t.getCore b.1 = b.2) ∧
      SameCoreBut ((if f.wback then some (f.base.num, f.offsetAddr base offset) else none).map Prod.fst).toList s t ∧
      t.served ∧ SameBlock s t ∧ SameExt s t ∧ t.mem = s.mem ∧ SameStatus s t ∧ t.cpsrOut = s.cpsrOut := by
  unfold writebackBase
  cases f.wback with
  | false =>
    exact ⟨s, rfl, by simp, fun _ _ => rfl, h, ⟨rfl, rfl, rfl, rfl, rfl, rfl, rfl⟩, fun _ => rfl, rfl, ⟨rfl, rfl⟩, rfl⟩
  | true =>
    simp only [if_true]
    refine ⟨_, writeReg_served h _ _ _, by simp, fun k hk => ?_, h, ⟨rfl, rfl, rfl, rfl, rfl, rfl, rfl⟩, fun _ => rfl, rfl, ⟨rfl, rfl⟩, rfl⟩
    have : k ≠ f.base.num := by simpa using hk
    rw [State.getCore_afterWrite, if_neg this]

/-- What a load changes, before `FAULT` is cleared. -/
def Loaded (s t : State) (rt : RegNum) (v : Word) (wb : Option (RegNum × Word)) : Prop :=
  (if rt = 15 then PcLoad s t v else t.getCore rt = v ∧ SameStatus s t) ∧
    (∀ b ∈ wb, t.getCore b.1 = b.2) ∧
    SameCoreBut (rt :: (wb.map Prod.fst).toList) s t ∧ t.mem = s.mem ∧ SameExt s t ∧ SameBlock s t

theorem PcLoad.congr {s s' t : State} {a : Word} (hp : PcLoad s' t a) (ha : s'.arch = s.arch) (hm : SameStatus s s')
    (hc : s'.cpsrOut = s.cpsrOut) : PcLoad s t a := by
  unfold PcLoad PcExchange PcBranch SetSelected SameStatus at *
  simpa [ha, hm.1, hm.2, hc] using hp

/-- Everything a load of rule R350 does where its bytes are mapped, the register it loads is not the base it writes back,
and a loaded PC comes from an aligned address. -/
theorem loadSingle_spec {s : State} (h : s.served) (rt : RegNum) (size : Nat) (f : AddrForm) {v : DWord}
    (hv : Memory.readLE s.mem (f.addressIn s) size = some v)
    (ha : rt = 15 → (f.addressIn s).extractLsb' 0 2 = 0) (hw : f.wback = true → f.base.num ≠ rt ∧ f.base.num ≠ 15) :
    ∃ t, loadSingle rt size f s = .ok () t ∧ Loaded s t rt (v.setWidth 32) (f.writeback s) := by
  unfold loadSingle
  obtain ⟨tr, e⟩ := (AddrBase.value_reads h f.base).bind
  rw [e]; clear e
  obtain ⟨tr', e⟩ := (AddrOffset.value_reads (s := { s with trace := tr }) h f.offset).bind
  rw [e]; clear e
  have hu : (rt == 15 && (f.addressIn s).extractLsb' 0 2 != 0) = false := by
    cases hr : rt == 15
    · rfl
    · rw [ha (eq_of_beq hr)]; rfl
  have e1 : ({ s with trace := tr } : State).served := h
  simp only []
  erw [unpredictableIf_pass hu, bind_ok (memRead_served (s := { s with trace := tr' }) h _ hv)]
  obtain ⟨u, e, hb, hc, hs, hbl, hx, hm, hst, hcp⟩ := writebackBase_spec (s := ({ s with trace := tr' } : State).note
    (.readMemory (.registerLoad rt f.base.num (f.addressIn s - f.base.valueIn s)) (f.addressIn s) size v true)) h f
    (f.base.valueIn s) (f.offset.valueIn s)
  erw [bind_ok e]
  rw [handler_ite]
  split
  · rename_i hr
    subst hr
    obtain ⟨t, e, p, g⟩ := loadWritePC_spec hs (.registerLoad 15 f.base.num (f.addressIn s - f.base.valueIn s)) (v.setWidth 32)
    refine ⟨t, e, ?_, fun b hbm => ?_, fun k hk => ?_, g.mem.trans hm, fun k => (g.ext k).trans (hx k), ?_⟩
    · rw [if_pos rfl]
      exact p.congr hbl.arch hst hcp
    · have hw' : f.wback = true := by
        by_contra hn
        simp [AddrForm.writeback, hn] at hbm
      have hbe : b = (f.base.num, f.offsetAddr (f.base.valueIn s) (f.offset.valueIn s)) := by
        simpa [AddrForm.writeback, hw', eq_comm] using hbm
      subst hbe
      rw [g.core _ (by simpa using (hw hw').2)]
      exact hb _ (by simpa [AddrForm.writeback] using hbm)
    · have h15 : k ≠ 15 := fun e => hk (by simp [e])
      rw [g.core k (by simpa using h15)]
      exact hc k fun hm => hk (List.mem_cons_of_mem _ (by simpa [AddrForm.writeback] using hm))
    · exact ⟨g.block.1.trans hbl.1, g.block.2.trans hbl.2, g.block.3.trans hbl.3, g.block.4.trans hbl.4, g.block.5.trans hbl.5,
        g.block.6.trans hbl.6, g.block.7.trans hbl.7⟩
  · rename_i hr
    refine ⟨_, writeReg_served hs _ _ _, ?_, fun b hbm => ?_, fun k hk => ?_, hm, hx, ?_⟩
    · rw [if_neg hr]
      exact ⟨State.getCore_afterWrite_same _ _ _ _, hst⟩
    · have hw' : f.wback = true := by
        by_contra hn
        simp [AddrForm.writeback, hn] at hbm
      have hbe : b = (f.base.num, f.offsetAddr (f.base.valueIn s) (f.offset.valueIn s)) := by
        simpa [AddrForm.writeback, hw', eq_comm] using hbm
      subst hbe
      rw [State.getCore_afterWrite, if_neg (hw hw').1]
      exact hb _ (by simpa [AddrForm.writeback] using hbm)
    · have hne : k ≠ rt := fun e => hk (by simp [e])
      rw [State.getCore_afterWrite, if_neg hne]
      exact hc k fun hm => hk (List.mem_cons_of_mem _ (by simpa [AddrForm.writeback] using hm))
    · exact ⟨hbl.1, hbl.2, hbl.3, hbl.4, hbl.5, hbl.6, hbl.7⟩

/-- What a store changes, before `FAULT` is cleared. -/
def Stored (s t : State) (a : Word) (n : Nat) (v : DWord) (wb : Option (RegNum × Word)) : Prop :=
  t.mem = Memory.writeLE s.mem a v n ∧ (∀ b ∈ wb, t.getCore b.1 = b.2) ∧
    SameCoreBut (wb.map Prod.fst).toList s t ∧ SameStatus s t ∧ SameExt s t ∧ SameBlock s t

/-- Everything a store of rule R350 does. -/
theorem storeSingle_spec {s : State} (h : s.served) (rt : RegNum) (size : Nat) (f : AddrForm) :
    ∃ t, storeSingle rt size f s = .ok () t ∧
      Stored s t (f.addressIn s) size ((s.operand rt).setWidth 64) (f.writeback s) := by
  unfold storeSingle
  obtain ⟨tr, e⟩ := (AddrBase.value_reads h f.base).bind
  rw [e]; clear e
  obtain ⟨tr', e⟩ := (AddrOffset.value_reads (s := { s with trace := tr }) h f.offset).bind
  rw [e]; clear e
  obtain ⟨tr2, e⟩ := (readReg_reads (s := { s with trace := tr' }) h rt).bind
  erw [e]; clear e
  erw [bind_ok (memWrite_served (s := { s with trace := tr2 }) h _ _ _ _)]
  obtain ⟨u, e, hb, hc, hs, hbl, hx, hm, hst, hcp⟩ := writebackBase_spec (s := ({ s with trace := tr2 } : State).afterStore
    (.registerStore rt f.base.num (f.addressIn s - f.base.valueIn s)) (f.addressIn s) size ((s.operand rt).setWidth 64)) h f
    (f.base.valueIn s) (f.offset.valueIn s)
  exact ⟨u, e, hm, by simpa [AddrForm.writeback] using hb, fun k hk => hc k (by simpa [AddrForm.writeback] using hk), hst, hx,
    ⟨hbl.1, hbl.2, hbl.3, hbl.4, hbl.5, hbl.6, hbl.7⟩⟩

theorem loadDone_of {i : Instr} {h : Handler Unit} {s t : State} {rt : RegNum} {v : Word} {wb : Option (RegNum × Word)}
    (e : exec i s = runHandler h s) (ht : h s = .ok () t) (w : Loaded s t rt v wb) : LoadDone i s rt v wb :=
  completes_of e ht w.2.2.2.2.2 ⟨w.1, w.2.1, w.2.2.1, fun x => by simp [w.2.2.2.1], w.2.2.2.2.1⟩

theorem storeDone_of {i : Instr} {h : Handler Unit} {s t : State} {a : Word} {n : Nat} {v : DWord} {wb : Option (RegNum × Word)}
    (hn : n ≤ 8) (e : exec i s = runHandler h s) (ht : h s = .ok () t) (w : Stored s t a n v wb) :
    StoreDone i s a n (lowBytes v n) wb :=
  completes_of e ht w.2.2.2.2.2
    ⟨by simpa [w.1] using Memory.readLE_writeLE s.mem a v hn,
      fun x hx => by simpa [w.1] using Memory.read?_writeLE_other n s.mem a v x hx, w.2.1, w.2.2.1, w.2.2.2.1, w.2.2.2.2.1⟩

end Sys2Proof.Machine
end

