-- ==== Sys2Proof/Laws/Transfers.lean ====
section
/-! SUPPORT. What the multi-register transfers do where the host refuses nothing: the store and load loops of rules R201 to
R204 and R330 and the instructions over them (PUSH, POP, VPUSH, VPOP, LDM, STM). -/

namespace Sys2Proof.Machine

/-! ## Register lists -/

theorem mem_regNumbers {regs : BitVec 16} {r : RegNum} : r ∈ regNumbers regs ↔ regs.getLsbD r.toNat = true := by
  simp only [regNumbers, List.mem_map, List.mem_filter, List.mem_range]
  constructor
  · rintro ⟨k, ⟨hk, hb⟩, rfl⟩
    have : (BitVec.ofNat 4 k).toNat = k := by simp; omega
    rwa [this]
  · intro h
    exact ⟨r.toNat, ⟨r.isLt, h⟩, by simp⟩

theorem regNumbers_length (regs : BitVec 16) : (regNumbers regs).length = bitCount regs := by
  simp [regNumbers, bitCount, List.countP_eq_length_filter]

theorem bitCount_le (regs : BitVec 16) : bitCount regs ≤ 16 := by
  unfold bitCount
  exact List.countP_le_length.trans (by simp)

theorem regNumbers_sorted (regs : BitVec 16) : (regNumbers regs).Pairwise fun x y => x.toNat < y.toNat := by
  unfold regNumbers
  rw [List.pairwise_map]
  have h : ((List.range 16).filter regs.getLsbD).Pairwise (· < ·) := List.pairwise_lt_range.filter _
  refine h.imp_of_mem fun {a b} ha hb hab => ?_
  have h1 := List.mem_range.1 (List.mem_of_mem_filter ha)
  have h2 := List.mem_range.1 (List.mem_of_mem_filter hb)
  simp only [BitVec.toNat_ofNat]
  omega

/-! ## Runs of stores -/

/-- Items of `n` bytes each stored one after the other from `a` on. -/
def storeSeq (n : Nat) : Memory → Word → List DWord → Memory
  | m, _, [] => m
  | m, a, v :: rest => storeSeq n (Memory.writeLE m a v n) (a + BitVec.ofNat 32 n) rest

theorem word_add_ofNat_add (a : Word) (i j : Nat) : a + BitVec.ofNat 32 i + BitVec.ofNat 32 j = a + BitVec.ofNat 32 (i + j) := by
  apply BitVec.eq_of_toNat_eq
  simp only [BitVec.toNat_add, BitVec.toNat_ofNat]
  omega

theorem read?_storeSeq_other (n : Nat) (vs : List DWord) :
    ∀ (m : Memory) (a : Word) (x : Nat), (∀ j < n * vs.length, x ≠ (a + BitVec.ofNat 32 j).toNat) →
      Memory.read? (storeSeq n m a vs) x = Memory.read? m x := by
  induction vs with
  | nil => intro m a x _; rfl
  | cons v rest ih =>
    intro m a x h
    have e : n * (v :: rest).length = n * rest.length + n := by simp [Nat.mul_add]
    rw [e] at h
    simp only [storeSeq]
    rw [ih _ _ _ fun j hj => ?_, Memory.read?_writeLE_other n m a v x fun k hk => h k (by omega)]
    rw [word_add_ofNat_add]
    exact h _ (by omega)

theorem readLE_storeSeq (n : Nat) (hn : n ≤ 8) (vs : List DWord) :
    ∀ (m : Memory) (a : Word) (k : Nat) (hk : k < vs.length), n * vs.length ≤ 2 ^ 32 →
      Memory.readLE (storeSeq n m a vs) (a + BitVec.ofNat 32 (n * k)) n = some (lowBytes vs[k] n) := by
  induction vs with
  | nil => intro m a k hk; simp at hk
  | cons v rest ih =>
    intro m a k hk hl
    have e : n * (v :: rest).length = n * rest.length + n := by simp [Nat.mul_add]
    rw [e] at hl
    cases k with
    | zero =>
      simp only [storeSeq, Nat.mul_zero, List.getElem_cons_zero]
      have h0 : a + BitVec.ofNat 32 0 = a := by simp
      rw [h0, Memory.readLE_congr (m' := Memory.writeLE m a v n) n fun i hi => ?_]
      · exact Memory.readLE_writeLE m a v hn
      · refine read?_storeSeq_other n rest _ _ _ fun j hj => ?_
        rw [word_add_ofNat_add]
        exact word_add_ofNat_ne (by omega) (by omega) (by omega)
    | succ k =>
      have hk' : k < rest.length := by simpa using hk
      have ea : a + BitVec.ofNat 32 (n * (k + 1)) = a + BitVec.ofNat 32 n + BitVec.ofNat 32 (n * k) := by
        rw [word_add_ofNat_add, Nat.mul_add, Nat.mul_one, Nat.add_comm]
      simp only [storeSeq, List.getElem_cons_succ]
      rw [ea]
      exact ih _ _ k hk' (by omega)

theorem lowBytes_setWidth (v : Word) : lowBytes (v.setWidth 64) 4 = v.setWidth 64 := by
  apply BitVec.eq_of_getLsbD_eq
  intro i hi
  have key : ∀ j < 64, ((1#64 <<< (8 * 4)) - 1).getLsbD j = decide (j < 32) := by decide
  rw [lowBytes, BitVec.getLsbD_and, key i hi, BitVec.getLsbD_setWidth]
  by_cases h : i < 32
  · simp [h]
  · simp [h, BitVec.getLsbD_of_ge v i (by omega)]

theorem lowBytes_full (v : DWord) : lowBytes v 8 = v := by
  apply BitVec.eq_of_getLsbD_eq
  intro i hi
  have key : ∀ j < 64, ((1#64 <<< (8 * 8)) - 1).getLsbD j = true := by decide
  rw [lowBytes, BitVec.getLsbD_and, key i hi, Bool.and_true]

theorem lowBytes_byte (v : Word) : lowBytes (v.setWidth 64) 1 = (v.setWidth 8).setWidth 64 := by
  apply BitVec.eq_of_getLsbD_eq
  intro i hi
  have key : ∀ j < 64, ((1#64 <<< (8 * 1)) - 1).getLsbD j = decide (j < 8) := by decide
  rw [lowBytes, BitVec.getLsbD_and, key i hi, BitVec.getLsbD_setWidth, BitVec.getLsbD_setWidth, BitVec.getLsbD_setWidth]
  by_cases h : i < 8 <;> simp [h, hi]

/-- A value read from `n` bytes has no bit above them. -/
theorem readLE_lt (n : Nat) : ∀ {m : Memory} {a : Word} {v : DWord}, Memory.readLE m a n = some v →
    ∀ i, 8 * n ≤ i → v.getLsbD i = false := by
  induction n with
  | zero =>
    intro m a v h i _
    simp only [Memory.readLE, Option.some.injEq] at h
    subst h
    simp
  | succ n ih =>
    intro m a v h i hi
    simp only [Memory.readLE] at h
    split at h
    · rename_i b rest hb hr
      simp only [Option.some.injEq] at h
      subst h
      rw [BitVec.getLsbD_or, BitVec.getLsbD_shiftLeft, BitVec.getLsbD_setWidth, ih hr (i - 8) (by omega),
        BitVec.getLsbD_of_ge b i (by omega)]
      simp
    · simp at h

theorem readLE_word {m : Memory} {a : Word} {v : DWord} (h : Memory.readLE m a 4 = some v) : (v.setWidth 32).setWidth 64 = v := by
  apply BitVec.eq_of_getLsbD_eq
  intro i hi
  rw [BitVec.getLsbD_setWidth, BitVec.getLsbD_setWidth]
  by_cases h32 : i < 32
  · simp [h32, hi]
  · simp [h32, readLE_lt 4 h i (by omega)]

/-! ## What a run of stores leaves alone -/

/-- Everything but memory, the trace and the draws is as before. -/
structure SameButMem (s t : State) : Prop where
  block : SameBlock s t
  core : t.core = s.core
  ext : t.ext = s.ext
  status : SameStatus s t
  cpsrOut : t.cpsrOut = s.cpsrOut
  pcWritten : t.pcWritten = s.pcWritten

theorem SameButMem.refl (s : State) : SameButMem s s := ⟨⟨rfl, rfl, rfl, rfl, rfl, rfl, rfl⟩, rfl, rfl, ⟨rfl, rfl⟩, rfl, rfl⟩

theorem SameButMem.trans {s t u : State} (h : SameButMem s t) (k : SameButMem t u) : SameButMem s u :=
  ⟨⟨k.block.1.trans h.block.1, k.block.2.trans h.block.2, k.block.3.trans h.block.3, k.block.4.trans h.block.4,
      k.block.5.trans h.block.5, k.block.6.trans h.block.6, k.block.7.trans h.block.7⟩,
    k.core.trans h.core, k.ext.trans h.ext, ⟨k.status.1.trans h.status.1, k.status.2.trans h.status.2⟩,
    k.cpsrOut.trans h.cpsrOut, k.pcWritten.trans h.pcWritten⟩

theorem SameButMem.served {s t : State} (h : SameButMem s t) (hs : s.served) : t.served := h.block.refusals.trans hs

theorem SameButMem.operand {s t : State} (h : SameButMem s t) (n : RegNum) : t.operand n = s.operand n := by
  simp [State.operand, State.pcValue, State.getCore, h.block.inst, h.core]

/-- Everything the store loop of rules R201 and R330 does. -/
theorem storeLoop_spec (ctx : RegNum → Word → Context) (unknown : RegNum → Bool) (base : Word) (l : List RegNum) :
    ∀ {s : State} (_ : s.served) (off : Word),
      ∃ (t : State) (vs : List Word), storeLoop ctx unknown base l off s = .ok () t ∧ SameButMem s t ∧ vs.length = l.length ∧
        t.mem = storeSeq 4 s.mem (base + off) (vs.map fun v : Word => v.setWidth 64) ∧
        ∀ k (h : k < l.length) (h' : k < vs.length), unknown l[k] = false → vs[k] = s.operand l[k] := by
  induction l with
  | nil => intro s h off; exact ⟨s, [], rfl, .refl s, rfl, rfl, fun k h => by simp at h⟩
  | cons i rest ih =>
    intro s h off
    have step : ∃ u v, (if unknown i then do
          let v ← drawUnknown
          memWrite .unknownValue (base + off) 4 (v.setWidth 64)
        else do
          let v ← readReg i
          memWrite (ctx i off) (base + off) 4 (v.setWidth 64) : Handler Unit) s = .ok () u ∧ SameButMem s u ∧
        u.mem = Memory.writeLE s.mem (base + off) (v.setWidth 64) 4 ∧ (unknown i = false → v = s.operand i) := by
      cases hu : unknown i with
      | true =>
        refine ⟨({ s with draws := s.draws + 1 } : State).afterStore .unknownValue (base + off) 4
            ((Config.unknownBits32 s.draws).setWidth 64), Config.unknownBits32 s.draws, ?_, ?_, rfl, by simp⟩
        · simp only [if_true, handler_bind, drawUnknown_eq]
          exact memWrite_served (s := { s with draws := s.draws + 1 }) h _ _ _ _
        · exact ⟨⟨rfl, rfl, rfl, rfl, rfl, rfl, rfl⟩, rfl, rfl, ⟨rfl, rfl⟩, rfl, rfl⟩
      | false =>
        obtain ⟨tr, e⟩ := (readReg_reads h i).bind (k := fun v => memWrite (ctx i off) (base + off) 4 (v.setWidth 64))
        refine ⟨({ s with trace := tr } : State).afterStore (ctx i off) (base + off) 4 ((s.operand i).setWidth 64),
          s.operand i, ?_, ?_, rfl, fun _ => rfl⟩
        · simp only [Bool.false_eq_true, if_false]
          exact e.trans (memWrite_served (s := { s with trace := tr }) h _ _ _ _)
        · exact ⟨⟨rfl, rfl, rfl, rfl, rfl, rfl, rfl⟩, rfl, rfl, ⟨rfl, rfl⟩, rfl, rfl⟩
    obtain ⟨u, v, hu, su, mu, vu⟩ := step
    obtain ⟨t, vs, ht, st, lt, mt, kt⟩ := ih (su.served h) (off + 4)
    refine ⟨t, v :: vs, ?_, su.trans st, by simp [lt], ?_, ?_⟩
    · rw [storeLoop]
      have : ∀ k : Unit → Handler Unit, ((if unknown i then do
          let v ← drawUnknown
          memWrite .unknownValue (base + off) 4 (v.setWidth 64)
        else do
          let v ← readReg i
          memWrite (ctx i off) (base + off) 4 (v.setWidth 64) : Handler Unit) >>= k) s = k () u := fun k => bind_ok hu
      cases hui : unknown i <;> simp only [hui, if_true, if_false, Bool.false_eq_true, bind_assoc] at this ⊢ <;>
        rw [← ht] <;> exact this fun _ => storeLoop ctx unknown base rest (off + 4)
    · rw [mt, mu, ← BitVec.add_assoc]
      rfl
    · intro k hk hk' hun
      cases k with
      | zero => exact vu hun
      | succ k =>
        have := kt k (by simpa using hk) (by simpa using hk') hun
        simpa [su.operand] using this

/-- What a store of a register list leaves in memory. -/
theorem storeMany_mem {s t : State} {l : List RegNum} {vs : List Word} {a : Word} {unknown : RegNum → Bool}
    (hl : l.length ≤ 16) (lt : vs.length = l.length)
    (mt : t.mem = storeSeq 4 s.mem a (vs.map fun v : Word => v.setWidth 64))
    (kt : ∀ k (h : k < l.length) (h' : k < vs.length), unknown l[k] = false → vs[k] = s.operand l[k]) :
    WordsAt t a (l.map fun r => if unknown r then none else some (s.operand r)) ∧ SameMemBut a (4 * l.length) s t := by
  refine ⟨fun k hk => ?_, fun x hx => ?_⟩
  · have hk' : k < l.length := by simpa using hk
    have hv : k < vs.length := by omega
    have hr := readLE_storeSeq 4 (by omega) (vs.map fun v : Word => v.setWidth 64) s.mem a k (by simpa using hv)
      (by simp; omega)
    simp only [List.getElem_map, lowBytes_setWidth] at hr ⊢
    rw [← mt] at hr
    cases hu : unknown l[k] with
    | true => simp [hr]
    | false => simp [hr, kt k hk' hv hu]
  · rw [mt]
    exact read?_storeSeq_other 4 _ s.mem a x fun j hj => hx j (by simpa [lt] using hj)

/-- A base written back after a transfer, before `FAULT` is cleared. -/
theorem writeback_core {s u : State} (hc : u.core = s.core) (ctx : Context) (n : RegNum) (v : Word) :
    SameCoreBut [n] s (u.afterWrite ctx n v) := fun k hk => by
  have : k ≠ n := by simpa using hk
  rw [State.getCore_afterWrite, if_neg this]
  exact State.getCore_congr hc k

/-- What a store of a register list changes (R201, R330). -/
def StoredMany (s t : State) (regs : BitVec 16) (first : Word) (n : RegNum) (wback : Bool) (newBase : Word) : Prop :=
  WordsAt t first ((regNumbers regs).map fun r =>
      if r = n ∧ wback = true ∧ lowestSetBit regs ≠ r.toNat then none else some (s.operand r)) ∧
    SameMemBut first (4 * bitCount regs) s t ∧
    (wback = true → t.getCore n = newBase) ∧
    SameCoreBut (if wback then [n] else []) s t ∧ SameStatus s t ∧ SameExt s t ∧ SameBlock s t

theorem storeManyDone_of {i : Instr} {h : Handler Unit} {s t : State} {regs : BitVec 16} {first : Word} {n : RegNum}
    {wback : Bool} {newBase : Word} (e : exec i s = runHandler h s) (ht : h s = .ok () t)
    (w : StoredMany s t regs first n wback newBase) : StoreManyDone i s regs first n wback newBase :=
  completes_of e ht w.2.2.2.2.2.2 ⟨w.1, w.2.1, w.2.2.1, w.2.2.2.1, w.2.2.2.2.1, w.2.2.2.2.2.1⟩

/-- The words of a store, with the test of R201 and R330 for an UNKNOWN one as a Bool. -/
theorem unknown_words (o : RegNum → Word) (n : RegNum) (wback : Bool) (regs : BitVec 16) (b : RegNum → Bool)
    (hb : ∀ r, b r = true ↔ r = n ∧ wback = true ∧ lowestSetBit regs ≠ r.toNat) :
    (fun r : RegNum => if r = n ∧ wback = true ∧ lowestSetBit regs ≠ r.toNat then none else some (o r)) =
      fun r => if b r = true then none else some (o r) := by
  funext r
  by_cases h : b r = true
  · rw [if_pos h, if_pos ((hb r).1 h)]
  · rw [if_neg h, if_neg fun e => h ((hb r).2 e)]

/-- Everything STM does (R330). -/
theorem storeMultiple_spec {s : State} (h : s.served) (v : Variant) (n : RegNum) (regs : BitVec 16) (wback : Bool) :
    ∃ t, storeMultiple v n regs wback s = .ok () t ∧
      StoredMany s t regs (s.operand n + v.firstOffset (bitCount regs)) n wback (s.operand n + v.baseChange (bitCount regs)) := by
  unfold storeMultiple
  obtain ⟨tr, e⟩ := (readReg_reads h n).bind
  rw [e]; clear e
  obtain ⟨u, vs, hu, su, lu, mu, ku⟩ := storeLoop_spec (fun i off => .registerStore i n off)
    (fun i => i == n && wback && i.toNat != lowestSetBit regs) (s.operand n) (regNumbers regs)
    (s := { s with trace := tr }) h (v.firstOffset (bitCount regs))
  have hl : (regNumbers regs).length ≤ 16 := by rw [regNumbers_length]; exact bitCount_le regs
  obtain ⟨wa, sm⟩ := storeMany_mem (unknown := fun i => i == n && wback && i.toNat != lowestSetBit regs) hl lu mu ku
  have hun := unknown_words s.operand n wback regs (fun r => r == n && wback && r.toNat != lowestSetBit regs) fun r => by
    simp only [Bool.and_eq_true, beq_iff_eq, bne_iff_ne, ne_eq]
    exact ⟨fun ⟨⟨a, b⟩, c⟩ => ⟨a, b, fun e => c e.symm⟩, fun ⟨a, b, c⟩ => ⟨⟨a, b⟩, fun e => c e.symm⟩⟩
  rw [bind_ok hu, handler_ite]
  rw [regNumbers_length] at sm
  have bl : SameBlock s u := ⟨su.block.1, su.block.2, su.block.3, su.block.4, su.block.5, su.block.6, su.block.7⟩
  cases wback with
  | false =>
    refine ⟨u, rfl, ?_, sm, by simp, fun k _ => State.getCore_congr su.core k, su.status, fun k => State.getExt_congr su.ext k, bl⟩
    rw [hun]; exact wa
  | true =>
    refine ⟨_, writeReg_served (su.served h) _ _ _, ?_, sm, fun _ => ?_, writeback_core su.core _ _ _, su.status,
      fun k => State.getExt_congr su.ext k, ⟨bl.1, bl.2, bl.3, bl.4, bl.5, bl.6, bl.7⟩⟩
    · rw [hun]; exact wa
    · exact State.getCore_afterWrite_same _ _ _ _

/-- Everything PUSH does (R201). -/
theorem push_spec {s : State} (h : s.served) (regs : BitVec 16) :
    ∃ t, push regs s = .ok () t ∧
      StoredMany s t regs (s.getCore 13 - listBytes regs) 13 true (s.getCore 13 - listBytes regs) := by
  unfold push
  obtain ⟨tr, e⟩ := (readReg_reads h 13).bind
  rw [e]; clear e
  obtain ⟨u, vs, hu, su, lu, mu, ku⟩ := storeLoop_spec (fun i off => .stackPush (.core i) off)
    (fun i => i == 13 && i.toNat != lowestSetBit regs) (s.operand 13) (regNumbers regs)
    (s := { s with trace := tr }) h (0 - BitVec.ofNat 32 (4 * bitCount regs))
  have hl : (regNumbers regs).length ≤ 16 := by rw [regNumbers_length]; exact bitCount_le regs
  obtain ⟨wa, sm⟩ := storeMany_mem (unknown := fun i => i == 13 && i.toNat != lowestSetBit regs) hl lu mu ku
  have h13 : s.operand 13 = s.getCore 13 := rfl
  have ea : s.operand 13 + (0 - BitVec.ofNat 32 (4 * bitCount regs)) = s.getCore 13 - listBytes regs := by
    rw [h13, listBytes]; simp [BitVec.sub_eq_add_neg]
  have hun := unknown_words s.operand 13 true regs (fun r => r == 13 && r.toNat != lowestSetBit regs) fun r => by
    simp only [Bool.and_eq_true, beq_iff_eq, bne_iff_ne, ne_eq, true_and]
    exact ⟨fun ⟨a, c⟩ => ⟨a, fun e => c e.symm⟩, fun ⟨a, c⟩ => ⟨a, fun e => c e.symm⟩⟩
  rw [ea] at wa sm
  rw [regNumbers_length] at sm
  rw [bind_ok hu]
  have bl : SameBlock s u := ⟨su.block.1, su.block.2, su.block.3, su.block.4, su.block.5, su.block.6, su.block.7⟩
  refine ⟨_, writeReg_served (su.served h) _ _ _, ?_, sm, fun _ => ?_, writeback_core su.core _ _ _, su.status,
    fun k => State.getExt_congr su.ext k, ⟨bl.1, bl.2, bl.3, bl.4, bl.5, bl.6, bl.7⟩⟩
  · rw [hun]; exact wa
  · rw [State.getCore_afterWrite_same]; exact ea

/-! ## Loads of register lists -/

/-- What the load loop changes, before a writeback: `skip` says which registers are not written. -/
structure LoopLoaded (skip : RegNum → Bool) (vals : Nat → Word) (l : List RegNum) (s t : State) : Prop where
  loaded : ∀ k, (h : k < l.length) →
    if l[k] = 15 then PcLoad s t (vals k) else skip l[k] = false → t.getCore l[k] = vals k
  core : ∀ r, (r ∈ l → skip r = true ∧ r ≠ 15) → t.getCore r = s.getCore r
  status : (15 : RegNum) ∉ l → SameStatus s t ∧ t.cpsrOut = s.cpsrOut
  mem : t.mem = s.mem
  ext : SameExt s t
  draws : t.draws = s.draws
  block : SameBlock s t

/-- Everything the load loop of rules R202 and R330 does where its words are mapped. -/
theorem loadLoop_spec (ctx : RegNum → Word → Context) (skip : RegNum → Bool) (base : Word) (l : List RegNum) :
    ∀ {s : State} (_ : s.served) (off : Word) (vals : Nat → Word), l.Pairwise (fun x y => x.toNat < y.toNat) →
      (∀ k < l.length, Memory.readLE s.mem (base + off + BitVec.ofNat 32 (4 * k)) 4 = some ((vals k).setWidth 64)) →
      ∃ t, loadLoop ctx skip base l off s = .ok () t ∧ LoopLoaded skip vals l s t := by
  induction l with
  | nil =>
    intro s h off vals _ _
    exact ⟨s, rfl, fun k h => by simp at h, fun _ _ => rfl, fun _ => ⟨⟨rfl, rfl⟩, rfl⟩, rfl, fun _ => rfl, rfl, ⟨rfl, rfl, rfl, rfl, rfl, rfl, rfl⟩⟩
  | cons i rest ih =>
    intro s h off vals hs hm
    obtain ⟨hi, hrest⟩ := List.pairwise_cons.1 hs
    have h0 : Memory.readLE s.mem (base + off) 4 = some ((vals 0).setWidth 64) := by simpa using hm 0 (by simp)
    have hw : ((vals 0).setWidth 64).setWidth 32 = vals 0 := by
      apply BitVec.eq_of_toNat_eq
      simp
    rw [loadLoop, bind_ok (memRead_served h (ctx i off) h0), hw]
    have hm' : ∀ k < rest.length, Memory.readLE s.mem (base + (off + 4) + BitVec.ofNat 32 (4 * k)) 4 =
        some ((vals (k + 1)).setWidth 64) := by
      intro k hk
      have := hm (k + 1) (by simpa using hk)
      rwa [show base + (off + 4) + BitVec.ofNat 32 (4 * k) = base + off + BitVec.ofNat 32 (4 * (k + 1)) by
        rw [← BitVec.add_assoc, show (4 : Word) = BitVec.ofNat 32 4 from rfl, word_add_ofNat_add]; congr 2; omega]
    by_cases h15 : i = 15
    · have hnil : rest = [] := by
        cases rest with
        | nil => rfl
        | cons j r =>
          have := hi j (by simp)
          subst h15
          have hj := j.isLt
          simp at this
          omega
      subst h15 hnil
      obtain ⟨t, e, p, f⟩ := loadWritePC_spec (s := s.note (.readMemory (ctx 15 off) (base + off) 4 ((vals 0).setWidth 64) true)) h
        (ctx 15 off) (vals 0)
      refine ⟨t, ?_, fun k hk => ?_, fun r hr => ?_, fun hn => ?_, f.mem, f.ext, f.draws,
        ⟨f.block.1, f.block.2, f.block.3, f.block.4, f.block.5, f.block.6, f.block.7⟩⟩
      · simp only [if_true, loadLoop]
        rw [bind_ok e]
        rfl
      · have : k = 0 := by simpa using hk
        subst this
        exact (if_pos rfl : (if (15 : RegNum) = 15 then _ else _) = _) ▸ p
      · exact f.core r (by simp; intro e; exact (hr (by simp [e])).2 (by simp [e]))
      · simp at hn
    · simp only [if_neg h15]
      cases hk : skip i with
      | true =>
        simp only [if_true]
        obtain ⟨t, e, w⟩ := ih (s := s.note (.readMemory (ctx i off) (base + off) 4 ((vals 0).setWidth 64) true)) h (off + 4)
          (fun k => vals (k + 1)) hrest hm'
        refine ⟨t, ?_, fun k hk' => ?_, fun r hr => ?_, fun hn => ?_, w.mem, w.ext, w.draws,
          ⟨w.block.1, w.block.2, w.block.3, w.block.4, w.block.5, w.block.6, w.block.7⟩⟩
        · exact (bind_ok rfl).trans e
        · cases k with
          | zero =>
            rw [List.getElem_cons_zero, if_neg h15]
            intro hf
            rw [hk] at hf
            simp at hf
          | succ k => exact w.loaded k (by simpa using hk')
        · exact w.core r fun hmem => hr (List.mem_cons_of_mem _ hmem)
        · exact w.status fun hmem => hn (List.mem_cons_of_mem _ hmem)
      | false =>
        simp only [Bool.false_eq_true, if_false]
        have e1 := writeReg_served (s := s.note (.readMemory (ctx i off) (base + off) 4 ((vals 0).setWidth 64) true)) h
          (ctx i off) i (vals 0)
        rw [bind_ok e1]
        obtain ⟨t, e, w⟩ := ih (s := (s.note (.readMemory (ctx i off) (base + off) 4 ((vals 0).setWidth 64) true)).afterWrite
          (ctx i off) i (vals 0)) h (off + 4) (fun k => vals (k + 1)) hrest hm'
        have hne : ∀ r ∈ rest, r ≠ i := fun r hr e => by
          have := hi r hr
          rw [e] at this
          omega
        have hci : t.getCore i = vals 0 :=
          (w.core i fun hmem => absurd rfl (hne i hmem)).trans (State.getCore_afterWrite_same _ _ _ _)
        refine ⟨t, e, fun k hk' => ?_, fun r hr => ?_, fun hn => ?_, w.mem, w.ext, w.draws,
          ⟨w.block.1, w.block.2, w.block.3, w.block.4, w.block.5, w.block.6, w.block.7⟩⟩
        · cases k with
          | zero =>
            rw [List.getElem_cons_zero, if_neg h15]
            exact fun _ => hci
          | succ k =>
            have := w.loaded k (by simpa using hk')
            exact this
        · have hri : r ≠ i := fun e => by
            have := (hr (by simp [e])).1
            rw [e, hk] at this
            simp at this
          rw [w.core r fun hmem => hr (List.mem_cons_of_mem _ hmem), State.getCore_afterWrite, if_neg hri]
          rfl
        · exact w.status fun hmem => hn (List.mem_cons_of_mem _ hmem)

/-- What a load of a register list changes (R202, R330). -/
def LoadedMany (s t : State) (regs : BitVec 16) (vals : Nat → Word) (n : RegNum) (wback : Bool) (newBase : Word) : Prop :=
  (∀ k, (h : k < (regNumbers regs).length) → ¬ (wback = true ∧ (regNumbers regs)[k] = n) →
      if (regNumbers regs)[k] = 15 then PcLoad s t (vals k) else t.getCore (regNumbers regs)[k] = vals k) ∧
    (regs.getLsbD 15 = false → SameStatus s t) ∧
    (wback = true → regs.getLsbD n.toNat = false → t.getCore n = newBase) ∧
    SameCoreBut ((if wback then [n] else []) ++ regNumbers regs) s t ∧ t.mem = s.mem ∧ SameExt s t ∧ SameBlock s t

theorem loadManyDone_of {i : Instr} {h : Handler Unit} {s t : State} {regs : BitVec 16} {vals : Nat → Word} {n : RegNum}
    {wback : Bool} {newBase : Word} (e : exec i s = runHandler h s) (ht : h s = .ok () t)
    (w : LoadedMany s t regs vals n wback newBase) : LoadManyDone i s regs vals n wback newBase :=
  completes_of e ht w.2.2.2.2.2.2 ⟨w.1, w.2.1, w.2.2.1, w.2.2.2.1, fun x => by simp [w.2.2.2.2.1], w.2.2.2.2.2.1⟩

/-- The load loop followed by a write of the base, whatever its value. -/
theorem loadThenBase {s u t : State} {regs : BitVec 16} {vals : Nat → Word} {n : RegNum} {skip : RegNum → Bool}
    (hskip : ∀ r, r ≠ n → skip r = false) (w : LoopLoaded skip vals (regNumbers regs) s u)
    (hp : ∀ a, PcLoad s u a → PcLoad s t a) (hc : ∀ r, r ≠ n → t.getCore r = u.getCore r)
    (hst : SameStatus u t) (hm : t.mem = u.mem) (hx : SameExt u t) (hb : SameBlock u t) {newBase : Word}
    (hnew : regs.getLsbD n.toNat = false → t.getCore n = newBase) : LoadedMany s t regs vals n true newBase := by
  refine ⟨fun k hk hne => ?_, fun h15 => ?_, fun _ => hnew, fun r hr => ?_, hm.trans w.mem, fun k => (hx k).trans (w.ext k), ?_⟩
  · have hne' : (regNumbers regs)[k] ≠ n := fun e => hne ⟨rfl, e⟩
    have := w.loaded k hk
    split at this
    · rename_i h15
      rw [if_pos h15]
      exact hp _ this
    · rename_i h15
      rw [if_neg h15, hc _ hne']
      exact this (hskip _ hne')
  · have h15' : (15 : RegNum) ∉ regNumbers regs := fun hmem => by
      have h := mem_regNumbers.1 hmem
      have e : (15 : RegNum).toNat = 15 := rfl
      rw [e, h15] at h
      simp at h
    have := (w.status h15').1
    exact ⟨hst.1.trans this.1, hst.2.trans this.2⟩
  · simp only [if_true, List.singleton_append, List.mem_cons, not_or] at hr
    rw [hc r hr.1]
    exact w.core r fun hmem => absurd hmem hr.2
  · exact ⟨hb.1.trans w.block.1, hb.2.trans w.block.2, hb.3.trans w.block.3, hb.4.trans w.block.4, hb.5.trans w.block.5,
      hb.6.trans w.block.6, hb.7.trans w.block.7⟩

/-- A PC load seen through a later write of another register. -/
theorem PcLoad.mono {s u t : State} {a : Word} (h : PcLoad s u a) (hc : t.getCore 15 = u.getCore 15) (hst : SameStatus u t) :
    PcLoad s t a := by
  unfold PcLoad PcExchange PcBranch SetSelected SameStatus at *
  rw [hc, hst.1, hst.2]
  exact h

theorem LoopLoaded.of_base {s u : State} {regs : BitVec 16} {vals : Nat → Word} {n : RegNum} {skip : RegNum → Bool}
    (hn : n ≠ 15) (hskip : ∀ r, r ≠ n → skip r = false) (w : LoopLoaded skip vals (regNumbers regs) s u) (ctx : Context)
    (v : Word) {newBase : Word} (hv : regs.getLsbD n.toNat = false → v = newBase) :
    LoadedMany s (u.afterWrite ctx n v) regs vals n true newBase :=
  loadThenBase (t := u.afterWrite ctx n v) hskip w (fun a hp => hp.mono (by rw [State.getCore_afterWrite, if_neg (Ne.symm hn)]) ⟨rfl, rfl⟩)
    (fun r hr => by rw [State.getCore_afterWrite, if_neg hr]) ⟨rfl, rfl⟩ rfl (fun _ => rfl) ⟨rfl, rfl, rfl, rfl, rfl, rfl, rfl⟩
    fun hb => by rw [State.getCore_afterWrite_same, hv hb]

/-- Everything LDM does where its words are mapped (R330). -/
theorem loadMultiple_spec {s : State} (h : s.served) (v : Variant) (n : RegNum) (regs : BitVec 16) (wback : Bool)
    (vals : Nat → Word) (hn : n ≠ 15)
    (hm : WordsMapped s (s.operand n + v.firstOffset (bitCount regs)) (bitCount regs) vals) :
    ∃ t, loadMultiple v n regs wback s = .ok () t ∧
      LoadedMany s t regs vals n wback (s.operand n + v.baseChange (bitCount regs)) := by
  unfold loadMultiple
  obtain ⟨tr, e⟩ := (readReg_reads h n).bind
  rw [e]; clear e
  obtain ⟨u, hu, w⟩ := loadLoop_spec (fun i off => .registerLoad i n off) (fun i => wback && i == n) (s.operand n)
    (regNumbers regs) (s := { s with trace := tr }) h (v.firstOffset (bitCount regs)) vals (regNumbers_sorted regs)
    (by rw [regNumbers_length]; exact hm)
  have w' : LoopLoaded (fun i => wback && i == n) vals (regNumbers regs) s u :=
    ⟨w.loaded, w.core, w.status, w.mem, w.ext, w.draws,
      ⟨w.block.1, w.block.2, w.block.3, w.block.4, w.block.5, w.block.6, w.block.7⟩⟩
  have hus : u.served := w.block.refusals.trans h
  rw [bind_ok hu, handler_ite]
  cases wback with
  | false =>
    refine ⟨u, rfl, fun k hk _ => ?_, fun h15 => (w'.status fun hmem => ?_).1, by simp, fun r hr => ?_, w'.mem, w'.ext, w'.block⟩
    · have := w'.loaded k hk
      split at this
      · rename_i h15
        rw [if_pos h15]; exact this
      · rename_i h15
        rw [if_neg h15]; exact this rfl
    · have h := mem_regNumbers.1 hmem
      have e : (15 : RegNum).toNat = 15 := rfl
      rw [e, h15] at h
      simp at h
    · exact w'.core r fun hmem => absurd hmem (by simpa using hr)
  | true =>
    have hskip : ∀ r, r ≠ n → (true && r == n) = false := fun r hr => by simp [hr]
    simp only [if_true, handler_ite]
    cases hb : regs.getLsbD n.toNat with
    | true =>
      simp only [if_true, handler_bind, drawUnknown_eq]
      rw [writeReg_served (s := { u with draws := u.draws + 1 }) hus]
      refine ⟨_, rfl, ?_⟩
      have := w'.of_base (newBase := s.operand n + v.baseChange (bitCount regs)) hn hskip .unknownValue
        (Config.unknownBits32 u.draws) (by simp [hb])
      exact ⟨this.1, this.2.1, this.2.2.1, this.2.2.2.1, this.2.2.2.2.1, this.2.2.2.2.2.1,
        ⟨this.2.2.2.2.2.2.1, this.2.2.2.2.2.2.2, this.2.2.2.2.2.2.3, this.2.2.2.2.2.2.4, this.2.2.2.2.2.2.5,
          this.2.2.2.2.2.2.6, this.2.2.2.2.2.2.7⟩⟩
    | false =>
      simp only [Bool.false_eq_true, if_false]
      exact ⟨_, writeReg_served hus _ _ _, w'.of_base hn hskip _ _ fun _ => rfl⟩

/-- Everything POP does where its words are mapped (R202). -/
theorem pop_spec {s : State} (h : s.served) (regs : BitVec 16) (vals : Nat → Word)
    (hm : WordsMapped s (s.getCore 13) (bitCount regs) vals) :
    ∃ t, pop regs s = .ok () t ∧ LoadedMany s t regs vals 13 true (s.getCore 13 + listBytes regs) := by
  unfold pop
  obtain ⟨tr, e⟩ := (readReg_reads h 13).bind
  rw [e]; clear e
  have h13 : s.operand 13 = s.getCore 13 := rfl
  obtain ⟨u, hu, w⟩ := loadLoop_spec (fun i off => .stackPop (.core i) off) (fun i => i == 13) (s.operand 13)
    (regNumbers regs) (s := { s with trace := tr }) h 0 vals (regNumbers_sorted regs)
    (by
      rw [regNumbers_length]
      intro k hk
      rw [h13, show s.getCore 13 + 0 = s.getCore 13 by simp]
      exact hm k hk)
  have w' : LoopLoaded (fun i => i == 13) vals (regNumbers regs) s u :=
    ⟨w.loaded, w.core, w.status, w.mem, w.ext, w.draws,
      ⟨w.block.1, w.block.2, w.block.3, w.block.4, w.block.5, w.block.6, w.block.7⟩⟩
  have hus : u.served := w.block.refusals.trans h
  have hskip : ∀ r : RegNum, r ≠ 13 → (r == 13) = false := fun r hr => by simpa using hr
  have hn : (13 : RegNum) ≠ 15 := by decide
  rw [bind_ok hu, handler_ite]
  cases hb : regs.getLsbD 13 with
  | true =>
    simp only [if_true, handler_bind, drawUnknown_eq]
    rw [writeReg_served (s := { u with draws := u.draws + 1 }) hus]
    refine ⟨_, rfl, ?_⟩
    have hb' : regs.getLsbD (13 : RegNum).toNat = true := hb
    have := w'.of_base (newBase := s.getCore 13 + listBytes regs) hn hskip .unknownValue
      (Config.unknownBits32 u.draws) (by rw [hb']; simp)
    exact ⟨this.1, this.2.1, this.2.2.1, this.2.2.2.1, this.2.2.2.2.1, this.2.2.2.2.2.1,
      ⟨this.2.2.2.2.2.2.1, this.2.2.2.2.2.2.2, this.2.2.2.2.2.2.3, this.2.2.2.2.2.2.4, this.2.2.2.2.2.2.5,
        this.2.2.2.2.2.2.6, this.2.2.2.2.2.2.7⟩⟩
  | false =>
    simp only [Bool.false_eq_true, if_false]
    exact ⟨_, writeReg_served hus _ _ _, w'.of_base hn hskip _ _ fun _ => rfl⟩

/-! ## Extension registers -/

theorem readExt_served {s : State} (h : s.served) (r : PortReg) :
    callRead (portReadRegister r) s = .ok (s.regValue r) (s.note (.readRegister r 0 (s.regValue r) true)) := by
  simp [callRead, portReadRegister, State.refuses_served h]

theorem ExtList.reg_ne_pc (l : ExtList) (n : BitVec 5) : (l.reg n == PortReg.core 15#4) = false := by
  unfold ExtList.reg
  split <;> rfl

theorem writeExt_served {s : State} (h : s.served) (ctx : Context) (l : ExtList) (n : BitVec 5) (v : DWord) :
    callWrite (portWriteRegister ctx (l.reg n) v) s =
      .ok () ((s.setReg (l.reg n) v).note (.writeRegister ctx (l.reg n) v true)) := by
  have e := ExtList.reg_ne_pc l n
  simp [callWrite, portWriteRegister, State.refuses_served h, e]

theorem ExtList.size_le (l : ExtList) : l.size ≤ 8 := by
  unfold ExtList.size
  split <;> omega

theorem lowBytes_reg (s : State) (l : ExtList) (n : BitVec 5) : lowBytes (s.regValue (l.reg n)) l.size = s.regValue (l.reg n) := by
  unfold ExtList.reg ExtList.size
  cases l.isDouble
  · exact lowBytes_setWidth _
  · exact lowBytes_full _

theorem SameButMem.regValue {s t : State} (h : SameButMem s t) (l : ExtList) (n : BitVec 5) :
    t.regValue (l.reg n) = s.regValue (l.reg n) := by
  unfold ExtList.reg
  split <;> simp [State.regValue, State.getExt, h.ext]

/-- Everything the store loop of rule R203 does. -/
theorem extStoreLoop_spec (l : ExtList) (base : Word) (ns : List (BitVec 5)) :
    ∀ {s : State} (_ : s.served) (off : Word),
      ∃ t, extStoreLoop l base ns off s = .ok () t ∧ SameButMem s t ∧
        t.mem = storeSeq l.size s.mem (base + off) (ns.map fun n => s.regValue (l.reg n)) := by
  induction ns with
  | nil => intro s h off; exact ⟨s, rfl, .refl s, rfl⟩
  | cons n rest ih =>
    intro s h off
    rw [extStoreLoop, bind_ok (readExt_served h (l.reg n))]
    have hs : (s.note (.readRegister (l.reg n) 0 (s.regValue (l.reg n)) true)).served := h
    rw [bind_ok (memWrite_served hs (.stackPush (l.reg n) off) (base + off) l.size (s.regValue (l.reg n)))]
    have su : SameButMem s ((s.note (.readRegister (l.reg n) 0 (s.regValue (l.reg n)) true)).afterStore (.stackPush (l.reg n) off)
        (base + off) l.size (s.regValue (l.reg n))) :=
      ⟨⟨rfl, rfl, rfl, rfl, rfl, rfl, rfl⟩, rfl, rfl, ⟨rfl, rfl⟩, rfl, rfl⟩
    obtain ⟨t, e, st, mt⟩ := ih (su.served h) (off + BitVec.ofNat 32 l.size)
    refine ⟨t, e, su.trans st, ?_⟩
    rw [mt, ← BitVec.add_assoc]
    simp only [su.regValue]
    rfl

theorem ExtList.numbers_length (l : ExtList) : l.numbers.length = l.count := by simp [ExtList.numbers]

/-- Everything VPUSH does with a list of at most 32 registers (R203). -/
theorem vpush_spec {s : State} (h : s.served) (l : ExtList) (hc : l.count ≤ 32) :
    ∃ t, vpush l s = .ok () t ∧
      (∀ k, (hk : k < l.numbers.length) →
        Memory.readLE t.mem (s.getCore 13 - l.bytes + BitVec.ofNat 32 (l.size * k)) l.size =
          some (s.regValue (l.reg l.numbers[k]))) ∧
      SameMemBut (s.getCore 13 - l.bytes) (l.size * l.count) s t ∧
      t.getCore 13 = s.getCore 13 - l.bytes ∧ SameCoreBut [13] s t ∧ SameStatus s t ∧ SameExt s t ∧ SameBlock s t := by
  unfold vpush
  obtain ⟨tr, e⟩ := (readReg_reads h 13).bind
  rw [e]; clear e
  obtain ⟨u, hu, su, mu⟩ := extStoreLoop_spec l (s.operand 13) l.numbers (s := { s with trace := tr }) h (0 - l.bytes)
  have ea : s.operand 13 + (0 - l.bytes) = s.getCore 13 - l.bytes := by
    show s.getCore 13 + (0 - l.bytes) = s.getCore 13 - l.bytes
    simp [BitVec.sub_eq_add_neg]
  have hmu : u.mem = storeSeq l.size s.mem (s.getCore 13 - l.bytes) (l.numbers.map fun n => s.regValue (l.reg n)) := by
    rw [mu, ea]
    have : (fun n => ({ s with trace := tr } : State).regValue (l.reg n)) = fun n => s.regValue (l.reg n) := by
      funext n
      unfold ExtList.reg
      split <;> rfl
    rw [this]
  have hlen := ExtList.numbers_length l
  have hsz := ExtList.size_le l
  have hbound : l.size * l.count ≤ 2 ^ 32 := (Nat.mul_le_mul hsz hc).trans (by omega)
  rw [bind_ok hu]
  refine ⟨_, writeReg_served (su.served h) _ _ _, fun k hk => ?_, fun x hx => ?_, ?_, writeback_core su.core _ _ _, su.status,
    fun k => State.getExt_congr su.ext k, ⟨su.block.1, su.block.2, su.block.3, su.block.4, su.block.5, su.block.6, su.block.7⟩⟩
  · have := readLE_storeSeq l.size hsz (l.numbers.map fun n => s.regValue (l.reg n)) s.mem (s.getCore 13 - l.bytes) k
      (by simpa using hk) (by simpa [hlen] using hbound)
    simp only [List.getElem_map, lowBytes_reg] at this
    rw [← hmu] at this
    exact this
  · show Memory.read? u.mem x = _
    rw [hmu]
    exact read?_storeSeq_other l.size _ s.mem _ x fun j hj => hx j (by simpa [hlen] using hj)
  · rw [State.getCore_afterWrite_same]
    rfl

/-- An extension register of a list after one of the same kind is written (10_state.md rule R34). -/
theorem ExtList.regValue_setReg (s : State) (l : ExtList) (n k : BitVec 5) (v : DWord)
    (hv : l.isDouble = false → (v.setWidth 32).setWidth 64 = v) :
    (s.setReg (l.reg n) v).regValue (l.reg k) = if k = n then v else s.regValue (l.reg k) := by
  unfold ExtList.reg
  cases hd : l.isDouble with
  | true => exact State.getExt_setExt s n k v
  | false =>
    simp only [Bool.false_eq_true, if_false, State.setReg, State.regValue]
    rw [State.getExt_setExt]
    by_cases hkn : k = n
    · subst hkn
      simp [extHalf_extWithHalf, hv hd]
    · rw [if_neg hkn]
      by_cases hh : k >>> 1 = n >>> 1
      · rw [if_pos hh, extHalf_extWithHalf]
        have : n.getLsbD 0 ≠ k.getLsbD 0 := by
          revert hh hkn
          revert n k
          decide
        rw [if_neg this, hh]
      · rw [if_neg hh]

/-- The D registers that an S list cannot reach. -/
theorem ExtList.getExt_setReg_high (s : State) (l : ExtList) (n : BitVec 5) (v : DWord) (hd : l.isDouble = false)
    (k : BitVec 5) (hk : 16 ≤ k.toNat) : (s.setReg (l.reg n) v).getExt k = s.getExt k := by
  unfold ExtList.reg
  simp only [hd, Bool.false_eq_true, if_false, State.setReg]
  rw [State.getExt_setExt, if_neg]
  intro e
  have h2 : ∀ m : BitVec 5, (m >>> 1).toNat < 16 := by decide
  rw [e] at hk
  exact absurd (h2 n) (by omega)

/-- What the load loop of rule R204 changes. -/
structure ExtLoaded (l : ExtList) (vals : Nat → DWord) (ns : List (BitVec 5)) (s t : State) : Prop where
  loaded : ∀ k, (h : k < ns.length) → t.regValue (l.reg ns[k]) = vals k
  others : ∀ n, n ∉ ns → t.regValue (l.reg n) = s.regValue (l.reg n)
  high : l.isDouble = false → ∀ n : BitVec 5, 16 ≤ n.toNat → t.getExt n = s.getExt n
  core : t.core = s.core
  mem : t.mem = s.mem
  status : SameStatus s t
  block : SameBlock s t

theorem setReg_frame (s : State) (l : ExtList) (n : BitVec 5) (v : DWord) (c : PortCall) :
    ((s.setReg (l.reg n) v).note c).core = s.core ∧ ((s.setReg (l.reg n) v).note c).mem = s.mem ∧
      SameStatus s ((s.setReg (l.reg n) v).note c) ∧ SameBlock s ((s.setReg (l.reg n) v).note c) := by
  unfold ExtList.reg
  cases l.isDouble
  · exact ⟨rfl, rfl, ⟨rfl, rfl⟩, ⟨rfl, rfl, rfl, rfl, rfl, rfl, rfl⟩⟩
  · exact ⟨rfl, rfl, ⟨rfl, rfl⟩, ⟨rfl, rfl, rfl, rfl, rfl, rfl, rfl⟩⟩

/-- Everything the load loop of rule R204 does where its items are mapped. -/
theorem extLoadLoop_spec (l : ExtList) (base : Word) (ns : List (BitVec 5)) :
    ∀ {s : State} (_ : s.served) (off : Word) (vals : Nat → DWord), ns.Nodup →
      (∀ k < ns.length, Memory.readLE s.mem (base + off + BitVec.ofNat 32 (l.size * k)) l.size = some (vals k)) →
      ∃ t, extLoadLoop l base ns off s = .ok () t ∧ ExtLoaded l vals ns s t := by
  induction ns with
  | nil =>
    intro s h off vals _ _
    exact ⟨s, rfl, fun k h => by simp at h, fun _ _ => rfl, fun _ _ _ => rfl, rfl, rfl, ⟨rfl, rfl⟩, ⟨rfl, rfl, rfl, rfl, rfl, rfl, rfl⟩⟩
  | cons n rest ih =>
    intro s h off vals hnd hm
    obtain ⟨hn, hrest⟩ := List.nodup_cons.1 hnd
    have h0 : Memory.readLE s.mem (base + off) l.size = some (vals 0) := by simpa using hm 0 (by simp)
    have hv : l.isDouble = false → ((vals 0).setWidth 32).setWidth 64 = vals 0 := fun hd => by
      have : l.size = 4 := by simp [ExtList.size, hd]
      rw [this] at h0
      exact readLE_word h0
    have hnote : ∀ (u : State) (c : PortCall) (r : PortReg), (u.note c).regValue r = u.regValue r := fun u c r => by simp
    rw [extLoadLoop, bind_ok (memRead_served h (.stackPop (l.reg n) off) h0),
      bind_ok (writeExt_served (s := s.note (.readMemory (.stackPop (l.reg n) off) (base + off) l.size (vals 0) true)) h
        (.stackPop (l.reg n) off) l n (vals 0))]
    obtain ⟨fc, fm, fs, fb⟩ := setReg_frame (s.note (.readMemory (.stackPop (l.reg n) off) (base + off) l.size (vals 0) true)) l n
      (vals 0) (.writeRegister (.stackPop (l.reg n) off) (l.reg n) (vals 0) true)
    obtain ⟨t, e, w⟩ := ih (fb.refusals.trans h) (off + BitVec.ofNat 32 l.size) (fun k => vals (k + 1)) hrest (fun k hk => by
      rw [fm]
      have := hm (k + 1) (by simpa using hk)
      rwa [show base + (off + BitVec.ofNat 32 l.size) + BitVec.ofNat 32 (l.size * k) = base + off + BitVec.ofNat 32 (l.size * (k + 1)) by
        rw [← BitVec.add_assoc, word_add_ofNat_add, Nat.mul_add, Nat.mul_one, Nat.add_comm]])
    refine ⟨t, e, fun k hk => ?_, fun m hmem => ?_, fun hd m hm16 => ?_, w.core.trans fc, w.mem.trans fm,
      ⟨w.status.1.trans fs.1, w.status.2.trans fs.2⟩,
      ⟨w.block.1.trans fb.1, w.block.2.trans fb.2, w.block.3.trans fb.3, w.block.4.trans fb.4, w.block.5.trans fb.5,
        w.block.6.trans fb.6, w.block.7.trans fb.7⟩⟩
    · cases k with
      | zero =>
        have := w.others n hn
        rw [hnote, ExtList.regValue_setReg _ l n n _ hv, if_pos rfl] at this
        exact this
      | succ k => exact w.loaded k (by simpa using hk)
    · have hmn : m ≠ n := fun e => hmem (by simp [e])
      rw [w.others m fun hr => hmem (List.mem_cons_of_mem _ hr), hnote, ExtList.regValue_setReg _ l n m _ hv, if_neg hmn, hnote]
    · rw [w.high hd m hm16]
      exact ExtList.getExt_setReg_high _ l n (vals 0) hd m hm16

theorem ExtList.numbers_nodup {l : ExtList} (h : l.first + l.count ≤ 32) : l.numbers.Nodup := by
  unfold ExtList.numbers
  refine List.Nodup.map_on (fun a ha b hb e => ?_) List.nodup_range
  have h1 := List.mem_range.1 ha
  have h2 := List.mem_range.1 hb
  have := congrArg BitVec.toNat e
  simp only [BitVec.toNat_ofNat] at this
  omega

/-- Everything VPOP does where its items are mapped and its list stays within the registers (R204). -/
theorem vpop_spec {s : State} (h : s.served) (l : ExtList) (vals : Nat → DWord) (hl : l.first + l.count ≤ 32)
    (hm : ∀ k < l.count, Memory.readLE s.mem (s.getCore 13 + BitVec.ofNat 32 (l.size * k)) l.size = some (vals k)) :
    ∃ t, vpop l s = .ok () t ∧
      (∀ k, (hk : k < l.numbers.length) → t.regValue (l.reg l.numbers[k]) = vals k) ∧
      SameExtBut l s t ∧ t.getCore 13 = s.getCore 13 + l.bytes ∧ SameCoreBut [13] s t ∧ SameStatus s t ∧ t.mem = s.mem ∧
      SameBlock s t := by
  unfold vpop
  obtain ⟨tr, e⟩ := (readReg_reads h 13).bind
  rw [e]; clear e
  have h13 : s.operand 13 = s.getCore 13 := rfl
  obtain ⟨u, hu, w⟩ := extLoadLoop_spec l (s.operand 13) l.numbers (s := { s with trace := tr }) h 0 vals
    (ExtList.numbers_nodup hl) (by
      rw [ExtList.numbers_length]
      intro k hk
      rw [h13, show s.getCore 13 + 0 = s.getCore 13 by simp]
      exact hm k hk)
  have hreg : ∀ n, ({ s with trace := tr } : State).regValue (l.reg n) = s.regValue (l.reg n) := fun n => by
    unfold ExtList.reg
    split <;> rfl
  have hus : u.served := w.block.refusals.trans h
  have hafter : ∀ (v : State) (ctx : Context) (x : Word) (n : BitVec 5), (v.afterWrite ctx 13 x).regValue (l.reg n) = v.regValue (l.reg n) := by
    intro v ctx x n
    unfold ExtList.reg
    split <;> rfl
  rw [bind_ok hu]
  refine ⟨_, writeReg_served hus _ _ _, fun k hk => ?_, ?_, ?_, writeback_core w.core _ _ _, w.status, w.mem,
    ⟨w.block.1, w.block.2, w.block.3, w.block.4, w.block.5, w.block.6, w.block.7⟩⟩
  · rw [hafter]; exact w.loaded k hk
  · unfold SameExtBut
    cases hd : l.isDouble with
    | true =>
      intro n hn
      have := (w.others n hn).trans (hreg n)
      unfold ExtList.reg at this
      rw [hd] at this
      exact this
    | false =>
      refine ⟨fun n hn => ?_, fun n hn => w.high hd n hn⟩
      have := (w.others n hn).trans (hreg n)
      rw [← hafter u (.adjustStackPointer l.bytes) (s.operand 13 + l.bytes) n] at this
      simpa [ExtList.reg, hd] using this
  · rw [State.getCore_afterWrite_same]
    rfl

end Sys2Proof.Machine
end

