-- ==== Sys2Proof/Laws/Failures.lean ====
section
/-! SUPPORT. What a load does where a byte it needs is not mapped, or where a loaded PC would come from a misaligned address, the
host refusing nothing: single loads and table branches stop after reads alone, list loads keep the items before the unmapped
one. -/

namespace Sys2Proof.Machine

/-! ## Reads with their calls -/

/-- `h` only reads: it ends with `v` and adds reads to the trace. -/
def OnlyReads {α : Type} (h : Handler α) (s : State) (v : α) : Prop :=
  ∃ calls : List PortCall, h s = .ok v { s with trace := calls ++ s.trace } ∧ ∀ c ∈ calls, c.isWrite = false

/-- `h` raises `f` and has only added reads to the trace. -/
def ReadsThenRaises {α : Type} (h : Handler α) (s : State) (f : Failure) : Prop :=
  ∃ calls : List PortCall, h s = .error f { s with trace := calls ++ s.trace } ∧ ∀ c ∈ calls, c.isWrite = false

theorem OnlyReads.here {α : Type} {h : Handler α} {s : State} {v : α} (e : h s = .ok v s) : OnlyReads h s v := ⟨[], e, by simp⟩

theorem OnlyReads.then {α β : Type} {h : Handler α} {k : α → Handler β} {s : State} {v : α} {w : β} (e : OnlyReads h s v)
    (f : ∀ tr, OnlyReads (k v) { s with trace := tr } w) : OnlyReads (h >>= k) s w := by
  obtain ⟨cs, e, he⟩ := e
  obtain ⟨ds, g, hg⟩ := f (cs ++ s.trace)
  refine ⟨ds ++ cs, ?_, fun c hc => ?_⟩
  · rw [bind_ok e, g, List.append_assoc]
  · exact (List.mem_append.1 hc).elim (hg c) (he c)

theorem OnlyReads.raises {α β : Type} {h : Handler α} {k : α → Handler β} {s : State} {v : α} {f : Failure} (e : OnlyReads h s v)
    (g : ∀ tr, ReadsThenRaises (k v) { s with trace := tr } f) : ReadsThenRaises (h >>= k) s f := by
  obtain ⟨cs, e, he⟩ := e
  obtain ⟨ds, g, hg⟩ := g (cs ++ s.trace)
  refine ⟨ds ++ cs, ?_, fun c hc => ?_⟩
  · rw [bind_ok e, g, List.append_assoc]
  · exact (List.mem_append.1 hc).elim (hg c) (he c)

theorem ReadsThenRaises.bind {α β : Type} {h : Handler α} {k : α → Handler β} {s : State} {f : Failure}
    (e : ReadsThenRaises h s f) : ReadsThenRaises (h >>= k) s f := by
  obtain ⟨cs, e, he⟩ := e
  exact ⟨cs, bind_error e, he⟩

theorem readReg_onlyReads {s : State} (h : s.served) (n : RegNum) : OnlyReads (readReg n) s (s.operand n) := by
  rw [OnlyReads, readReg_served h]
  unfold State.afterRead
  split
  · exact ⟨[], rfl, by simp⟩
  · exact ⟨[_], rfl, by simp [PortCall.isWrite]⟩

theorem AddrBase.value_onlyReads {s : State} (h : s.served) (b : AddrBase) : OnlyReads b.value s (b.valueIn s) := by
  cases b with
  | reg n => exact readReg_onlyReads h n
  | literal => exact .here rfl

theorem AddrOffset.value_onlyReads {s : State} (h : s.served) (o : AddrOffset) : OnlyReads o.value s (o.valueIn s) := by
  cases o with
  | imm v => exact .here rfl
  | reg m ty amount => exact (readReg_onlyReads h m).then fun tr => .here rfl

theorem memRead_raises {s : State} (h : s.served) (ctx : Context) {a : Word} {n : Nat} (hv : Memory.readLE s.mem a n = none) :
    ReadsThenRaises (memRead ctx a n) s .accessFailure :=
  ⟨[_], memRead_unmapped h ctx hv, by simp [PortCall.isWrite]⟩

/-! ## Single loads and table branches -/

/-- A load of the PC from a misaligned address (48_load_store_single.md rule R350). -/
theorem loadSingle_misaligned {s : State} (h : s.served) (size : Nat) (f : AddrForm)
    (ha : (f.addressIn s).extractLsb' 0 2 ≠ 0) : ReadsThenRaises (loadSingle 15 size f) s .unpredictableOperands := by
  unfold loadSingle
  refine (AddrBase.value_onlyReads h f.base).raises fun tr =>
    (AddrOffset.value_onlyReads (s := { s with trace := tr }) h f.offset).raises fun tr' => ?_
  refine ⟨[], ?_, by simp⟩
  have hu : ((15 : RegNum) == 15 && (f.addressIn s).extractLsb' 0 2 != 0) = true := by simpa using ha
  exact unpredictableIf_stop hu

/-- A load from bytes that are not all mapped (R350). -/
theorem loadSingle_unmapped {s : State} (h : s.served) (rt : RegNum) (size : Nat) (f : AddrForm)
    (ha : rt = 15 → (f.addressIn s).extractLsb' 0 2 = 0) (hv : Memory.readLE s.mem (f.addressIn s) size = none) :
    ReadsThenRaises (loadSingle rt size f) s .accessFailure := by
  unfold loadSingle
  refine (AddrBase.value_onlyReads h f.base).raises fun tr =>
    (AddrOffset.value_onlyReads (s := { s with trace := tr }) h f.offset).raises fun tr' => ?_
  have hu : (rt == 15 && (f.addressIn s).extractLsb' 0 2 != 0) = false := by
    cases hr : rt == 15
    · rfl
    · rw [ha (eq_of_beq hr)]; rfl
  have key := fun ctx => (memRead_raises (s := { s with trace := tr' }) h ctx hv).bind (k := fun data => do
    writebackBase f (f.base.valueIn s) (f.offset.valueIn s)
    if rt = 15 then loadWritePC ctx (data.setWidth 32) else writeReg ctx rt (data.setWidth 32))
  obtain ⟨cs, e, hc⟩ := key (.registerLoad rt f.base.num (f.addressIn s - f.base.valueIn s))
  exact ⟨cs, (unpredictableIf_pass hu).trans e, hc⟩

/-- TBB and TBH whose table entry is not mapped (46_branch.md rules R312, R313). -/
theorem tableBranch_unmapped {s : State} (h : s.served) (n m : RegNum) (size scale : Nat)
    (hv : Memory.readLE s.mem (s.operand n + s.operand m <<< scale) size = none) :
    ReadsThenRaises (tableBranch n m size scale) s .accessFailure := by
  unfold tableBranch
  exact (readReg_onlyReads h n).raises fun tr =>
    (readReg_onlyReads (s := { s with trace := tr }) h m).raises fun tr' =>
      (memRead_raises (s := { s with trace := tr' }) h .tableBranch hv).bind

theorem stopsReading_of {i : Instr} {h : Handler Unit} {s : State} {f : Failure} (e : exec i s = runHandler h s)
    (r : ReadsThenRaises h s f) : StopsReading i s f := by
  obtain ⟨cs, hr, hc⟩ := r
  exact ⟨cs, raises_of e hr, hc⟩

/-! ## Loads of lists -/

theorem loadLoop_append (ctx : RegNum → Word → Context) (skip : RegNum → Bool) (base : Word) (l m : List RegNum) :
    ∀ off, loadLoop ctx skip base (l ++ m) off =
      (loadLoop ctx skip base l off >>= fun _ => loadLoop ctx skip base m (off + BitVec.ofNat 32 (4 * l.length))) := by
  induction l with
  | nil => intro off; simp [loadLoop]
  | cons i rest ih =>
    intro off
    have e : off + 4 + BitVec.ofNat 32 (4 * rest.length) = off + BitVec.ofNat 32 (4 * (i :: rest).length) := by
      rw [show (4 : Word) = BitVec.ofNat 32 4 from rfl, word_add_ofNat_add]
      congr 2
      simp only [List.length_cons]
      omega
    simp only [List.cons_append, loadLoop, ih, e, bind_assoc]
    refine bind_congr fun d => ?_
    split
    · simp only [bind_assoc]
    · split <;> simp only [bind_assoc]

theorem LoopLoaded.note {skip : RegNum → Bool} {vals : Nat → Word} {l : List RegNum} {s t : State}
    (w : LoopLoaded skip vals l s t) (c : PortCall) : LoopLoaded skip vals l s (t.note c) :=
  ⟨w.loaded, w.core, w.status, w.mem, w.ext, w.draws,
    ⟨w.block.1, w.block.2, w.block.3, w.block.4, w.block.5, w.block.6, w.block.7⟩⟩

/-- The load loop of rules R202 and R330 where the `j`-th word is the first that is not mapped. -/
theorem loadLoop_unmapped {s : State} (h : s.served) (ctx : RegNum → Word → Context) (skip : RegNum → Bool) (base : Word)
    (l : List RegNum) (off : Word) (vals : Nat → Word) (j : Nat) (hj : j < l.length)
    (hs : l.Pairwise fun x y => x.toNat < y.toNat)
    (hm : ∀ k < j, Memory.readLE s.mem (base + off + BitVec.ofNat 32 (4 * k)) 4 = some ((vals k).setWidth 64))
    (hv : Memory.readLE s.mem (base + off + BitVec.ofNat 32 (4 * j)) 4 = none) :
    ∃ t, loadLoop ctx skip base l off s = .error .accessFailure t ∧ LoopLoaded skip vals (l.take j) s t := by
  have hl : (l.take j).length = j := by simp; omega
  obtain ⟨u, hu, w⟩ := loadLoop_spec ctx skip base (l.take j) h off vals (hs.sublist (List.take_sublist ..)) (by rwa [hl])
  have hus : u.served := w.block.refusals.trans h
  obtain ⟨d, rest, hd⟩ : ∃ d rest, l.drop j = d :: rest := ⟨_, _, List.drop_eq_getElem_cons hj⟩
  have e := loadLoop_append ctx skip base (l.take j) (l.drop j) off
  rw [List.take_append_drop, hl, hd] at e
  rw [← w.mem, BitVec.add_assoc] at hv
  exact ⟨_, by rw [e, bind_ok hu, loadLoop, bind_error (memRead_unmapped hus _ hv)], w.note _⟩

/-- What a load of a list that fails at its `j`-th word has changed. -/
def LoadedFirst (s t : State) (regs : BitVec 16) (vals : Nat → Word) (n : RegNum) (wback : Bool) (j : Nat) : Prop :=
  (∀ k, (h : k < (regNumbers regs).length) → k < j → ¬ (wback = true ∧ (regNumbers regs)[k] = n) →
      t.getCore (regNumbers regs)[k] = vals k) ∧
    SameCoreBut (((regNumbers regs).take j).filter fun r => !(wback && r == n)) s t ∧
    SameStatus s t ∧ t.mem = s.mem ∧ SameExt s t ∧ SameBlock s t

/-- The PC, last of a list, is not before any item of it. -/
theorem pc_not_before {regs : BitVec 16} {j : Nat} (hj : j < bitCount regs) : (15 : RegNum) ∉ (regNumbers regs).take j := by
  rw [← regNumbers_length] at hj
  intro hm
  have hs := regNumbers_sorted regs
  rw [← List.take_append_drop j (regNumbers regs)] at hs
  have hd : (regNumbers regs)[j] ∈ (regNumbers regs).drop j := by 
    rw [List.drop_eq_getElem_cons hj]
    exact List.mem_cons_self
  have := (List.pairwise_append.1 hs).2.2 _ hm _ hd
  have := ((regNumbers regs)[j]).isLt
  have e : (15 : RegNum).toNat = 15 := rfl
  omega

theorem LoopLoaded.first {s t : State} {regs : BitVec 16} {vals : Nat → Word} {n : RegNum} {wback : Bool} {j : Nat}
    (hj : j < bitCount regs) (w : LoopLoaded (fun i => wback && i == n) vals ((regNumbers regs).take j) s t) :
    LoadedFirst s t regs vals n wback j := by
  have h15 := pc_not_before hj
  refine ⟨fun k hk hkj hne => ?_, fun r hr => w.core r fun hm => ?_, (w.status h15).1, w.mem, w.ext, w.block⟩
  · have hk' : k < ((regNumbers regs).take j).length := by simp; omega
    have := w.loaded k hk'
    rw [List.getElem_take] at this
    have hmem : (regNumbers regs)[k] ∈ (regNumbers regs).take j := by
      rw [← List.getElem_take (i := k) (j := j) (h := hk')]
      exact List.getElem_mem _
    have hne15 : (regNumbers regs)[k] ≠ 15 := fun e => h15 (e ▸ hmem)
    rw [if_neg hne15] at this
    refine this ?_
    cases wback <;> simp_all
  · refine ⟨?_, fun e => h15 (e ▸ hm)⟩
    by_contra hf
    exact hr (List.mem_filter.2 ⟨hm, by simp [hf]⟩)

/-- LDM whose `j`-th word is the first that is not mapped (47_load_store_multiple.md rule R330). -/
theorem loadMultiple_unmapped {s : State} (h : s.served) (v : Variant) (n : RegNum) (regs : BitVec 16) (wback : Bool)
    (vals : Nat → Word) {j : Nat} (hj : j < bitCount regs)
    (hm : WordsMapped s (s.operand n + v.firstOffset (bitCount regs)) j vals)
    (hv : Memory.readLE s.mem (s.operand n + v.firstOffset (bitCount regs) + BitVec.ofNat 32 (4 * j)) 4 = none) :
    ∃ t, loadMultiple v n regs wback s = .error .accessFailure t ∧ LoadedFirst s t regs vals n wback j := by
  unfold loadMultiple
  obtain ⟨tr, e⟩ := (readReg_reads h n).bind
  rw [e]; clear e
  obtain ⟨t, ht, w⟩ := loadLoop_unmapped (s := { s with trace := tr }) h (fun i off => .registerLoad i n off)
    (fun i => wback && i == n) (s.operand n) (regNumbers regs) (v.firstOffset (bitCount regs)) vals j
    (by rwa [regNumbers_length]) (regNumbers_sorted regs) hm hv
  have w' := w.first hj
  exact ⟨t, bind_error ht, w'.1, w'.2.1, w'.2.2.1, w'.2.2.2.1, w'.2.2.2.2.1,
    ⟨w'.2.2.2.2.2.1, w'.2.2.2.2.2.2, w'.2.2.2.2.2.3, w'.2.2.2.2.2.4, w'.2.2.2.2.2.5, w'.2.2.2.2.2.6, w'.2.2.2.2.2.7⟩⟩

/-- POP whose `j`-th word is the first that is not mapped (42_stack.md rules R200, R202). -/
theorem pop_unmapped {s : State} (h : s.served) (regs : BitVec 16) (vals : Nat → Word) {j : Nat} (hj : j < bitCount regs)
    (hm : WordsMapped s (s.getCore 13) j vals)
    (hv : Memory.readLE s.mem (s.getCore 13 + BitVec.ofNat 32 (4 * j)) 4 = none) :
    ∃ t, pop regs s = .error .accessFailure t ∧ LoadedFirst s t regs vals 13 true j := by
  unfold pop
  obtain ⟨tr, e⟩ := (readReg_reads h 13).bind
  rw [e]; clear e
  have e0 : s.operand 13 + 0 = s.getCore 13 := by
    show s.getCore 13 + 0 = s.getCore 13
    simp
  obtain ⟨t, ht, w⟩ := loadLoop_unmapped (s := { s with trace := tr }) h (fun i off => .stackPop (.core i) off)
    (fun i => i == 13) (s.operand 13) (regNumbers regs) 0 vals j
    (by rwa [regNumbers_length]) (regNumbers_sorted regs) (by rw [e0]; exact hm) (by rw [e0]; exact hv)
  have w' := LoopLoaded.first (n := 13) (wback := true) hj (by simpa using w)
  exact ⟨t, bind_error ht, w'.1, w'.2.1, w'.2.2.1, w'.2.2.2.1, w'.2.2.2.2.1,
    ⟨w'.2.2.2.2.2.1, w'.2.2.2.2.2.2, w'.2.2.2.2.2.3, w'.2.2.2.2.2.4, w'.2.2.2.2.2.5, w'.2.2.2.2.2.6, w'.2.2.2.2.2.7⟩⟩

theorem loadManyStops_of {i : Instr} {h : Handler Unit} {s t : State} {regs : BitVec 16} {vals : Nat → Word} {n : RegNum}
    {wback : Bool} {j : Nat} (e : exec i s = runHandler h s) (ht : h s = .error .accessFailure t)
    (w : LoadedFirst s t regs vals n wback j) :
    ∃ u, exec i s = .next u ∧ u.fault = some .accessFailure ∧
      (∀ k, (h : k < (regNumbers regs).length) → k < j → ¬ (wback = true ∧ (regNumbers regs)[k] = n) →
        u.getCore (regNumbers regs)[k] = vals k) ∧
      SameCoreBut (((regNumbers regs).take j).filter fun r => !(wback && r == n)) s u ∧
      SameStatus s u ∧ SameMem s u ∧ SameExt s u ∧ SameBlock s u :=
  ⟨_, raises_of e ht, rfl, w.1, w.2.1, w.2.2.1, fun x => by simp [State.raise, w.2.2.2.1], w.2.2.2.2.1,
    ⟨w.2.2.2.2.2.1, w.2.2.2.2.2.2, w.2.2.2.2.2.3, w.2.2.2.2.2.4, w.2.2.2.2.2.5, w.2.2.2.2.2.6, w.2.2.2.2.2.7⟩⟩

/-! ## Extension registers -/

theorem extLoadLoop_append (l : ExtList) (base : Word) (ns ms : List (BitVec 5)) :
    ∀ off, extLoadLoop l base (ns ++ ms) off =
      (extLoadLoop l base ns off >>= fun _ => extLoadLoop l base ms (off + BitVec.ofNat 32 (l.size * ns.length))) := by
  induction ns with
  | nil => intro off; simp [extLoadLoop]
  | cons n rest ih =>
    intro off
    have e : off + BitVec.ofNat 32 l.size + BitVec.ofNat 32 (l.size * rest.length) =
        off + BitVec.ofNat 32 (l.size * (n :: rest).length) := by
      rw [word_add_ofNat_add, List.length_cons, Nat.mul_add, Nat.mul_one, Nat.add_comm]
    simp only [List.cons_append, extLoadLoop, ih, e, bind_assoc]

theorem ExtList.numbers_take {l : ExtList} {j : Nat} (hj : j ≤ l.count) :
    l.numbers.take j = ({ l with count := j } : ExtList).numbers := by
  unfold ExtList.numbers
  rw [← List.map_take, List.take_range, Nat.min_eq_left hj]

/-- VPOP whose `j`-th item is the first that is not mapped (42_stack.md rules R200, R204). -/
theorem vpop_unmapped {s : State} (h : s.served) (l : ExtList) (vals : Nat → DWord) (hl : l.first + l.count ≤ 32) {j : Nat}
    (hj : j < l.count)
    (hm : ∀ k < j, Memory.readLE s.mem (s.getCore 13 + BitVec.ofNat 32 (l.size * k)) l.size = some (vals k))
    (hv : Memory.readLE s.mem (s.getCore 13 + BitVec.ofNat 32 (l.size * j)) l.size = none) :
    ∃ t, vpop l s = .error .accessFailure t ∧
      (∀ k, (h : k < l.numbers.length) → k < j → t.regValue (l.reg l.numbers[k]) = vals k) ∧
      SameExtBut { l with count := j } s t ∧ SameCoreBut [] s t ∧ SameStatus s t ∧ t.mem = s.mem ∧ SameBlock s t := by
  unfold vpop
  obtain ⟨tr, e⟩ := (readReg_reads h 13).bind
  rw [e]; clear e
  have e0 : s.operand 13 + 0 = s.getCore 13 := by
    show s.getCore 13 + 0 = s.getCore 13
    simp
  have hlen : (l.numbers.take j).length = j := by simp [ExtList.numbers_length]; omega
  have hnd : (l.numbers.take j).Nodup := (ExtList.numbers_nodup hl).sublist (List.take_sublist ..)
  obtain ⟨u, hu, w⟩ := extLoadLoop_spec l (s.operand 13) (l.numbers.take j) (s := { s with trace := tr }) h 0 vals hnd
    (by rw [hlen, e0]; exact hm)
  have hus : u.served := w.block.refusals.trans h
  obtain ⟨d, rest, hd⟩ : ∃ d rest, l.numbers.drop j = d :: rest :=
    ⟨_, _, List.drop_eq_getElem_cons (by rwa [ExtList.numbers_length])⟩
  have e := extLoadLoop_append l (s.operand 13) (l.numbers.take j) (l.numbers.drop j) 0
  rw [List.take_append_drop, hlen, hd] at e
  have hv' : Memory.readLE u.mem (s.operand 13 + (0 + BitVec.ofNat 32 (l.size * j))) l.size = none := by
    rw [w.mem, ← BitVec.add_assoc, e0]
    exact hv
  have hreg : ∀ n, ({ s with trace := tr } : State).regValue (l.reg n) = s.regValue (l.reg n) := fun n => by
    unfold ExtList.reg
    split <;> rfl
  have hnote : ∀ (c : PortCall) (n : BitVec 5), (u.note c).regValue (l.reg n) = u.regValue (l.reg n) := fun c n => by
    unfold ExtList.reg
    split <;> rfl
  have ht := (congrFun e _).trans (bind_ok hu)
  rw [extLoadLoop, bind_error (memRead_unmapped hus (.stackPop (l.reg d) (0 + BitVec.ofNat 32 (l.size * j))) hv')] at ht
  refine ⟨_, bind_error ht, fun k hk hkj => ?_, ?_,
    fun r _ => State.getCore_congr w.core r, w.status, w.mem,
    ⟨w.block.1, w.block.2, w.block.3, w.block.4, w.block.5, w.block.6, w.block.7⟩⟩
  · rw [hnote]
    have := w.loaded k (by rw [hlen]; exact hkj)
    rwa [List.getElem_take] at this
  · rw [ExtList.numbers_take hj.le] at w
    unfold SameExtBut
    simp only []
    cases hd : l.isDouble with
    | true =>
      intro n hn
      have := (w.others n hn).trans (hreg n)
      unfold ExtList.reg at this
      rw [hd] at this
      exact this
    | false =>
      refine ⟨fun n hn => ?_, fun n hn => w.high hd n hn⟩
      have := (w.others n hn).trans (hreg n)
      unfold ExtList.reg at this
      rw [hd] at this
      exact this

end Sys2Proof.Machine
end

