-- ==== Sys2Proof/Laws/PerInstr.lean ====
section
/-! SUPPORT. A statement made of every instruction: its word is read back by a row of its own table. -/

namespace Sys2Proof.Laws.RowReadsBack

/-- Some row of the table of the instruction's set and width (30_encoding.md rules R100, R101) matches the word the encoder
writes for it and reads every operand back (rules R102 to R104). -/
def Statement (i : Instr) : Prop :=
  ∃ (k : Nat) (r : Row), (tableOf i.form.1 i.form.2)[k]? = some r ∧ r.hits (encode i) = true ∧ r.build (encode i) = i

theorem of_row {i : Instr} {k : Nat} {r : Row} (hr : (tableOf i.form.1 i.form.2)[k]? = some r)
    (hh : encode i &&& r.mask = r.value) (hb : r.build (encode i) = i) : Statement i :=
  ⟨k, r, hr, by simp [Row.hits, hh], hb⟩

theorem pushA1 (cond : BitVec 4) (regs : BitVec 16) : Statement (.pushA1 cond regs) :=
  of_row (k := 0) rfl (encAReglist_hits rfl rfl _ _) (encAReglist_reads _ rfl _ _)
theorem pushA2 (cond : BitVec 4) (rt : BitVec 4) : Statement (.pushA2 cond rt) :=
  of_row (k := 1) rfl (encARt_hits rfl rfl _ _) (encARt_reads _ rfl _ _)
theorem vpushA1 (cond : BitVec 4) (dbit : BitVec 1) (vd : BitVec 4) (imm8 : BitVec 8) : Statement (.vpushA1 cond dbit vd imm8) :=
  of_row (k := 2) rfl (encAVlist_hits rfl rfl _ _ _ _) (encAVlist_reads _ rfl _ _ _ _)
theorem vpushA2 (cond : BitVec 4) (dbit : BitVec 1) (vd : BitVec 4) (imm8 : BitVec 8) : Statement (.vpushA2 cond dbit vd imm8) :=
  of_row (k := 3) rfl (encAVlist_hits rfl rfl _ _ _ _) (encAVlist_reads _ rfl _ _ _ _)
theorem popA1 (cond : BitVec 4) (regs : BitVec 16) : Statement (.popA1 cond regs) :=
  of_row (k := 4) rfl (encAReglist_hits rfl rfl _ _) (encAReglist_reads _ rfl _ _)
theorem popA2 (cond : BitVec 4) (rt : BitVec 4) : Statement (.popA2 cond rt) :=
  of_row (k := 5) rfl (encARt_hits rfl rfl _ _) (encARt_reads _ rfl _ _)
theorem vpopA1 (cond : BitVec 4) (dbit : BitVec 1) (vd : BitVec 4) (imm8 : BitVec 8) : Statement (.vpopA1 cond dbit vd imm8) :=
  of_row (k := 6) rfl (encAVlist_hits rfl rfl _ _ _ _) (encAVlist_reads _ rfl _ _ _ _)
theorem vpopA2 (cond : BitVec 4) (dbit : BitVec 1) (vd : BitVec 4) (imm8 : BitVec 8) : Statement (.vpopA2 cond dbit vd imm8) :=
  of_row (k := 7) rfl (encAVlist_hits rfl rfl _ _ _ _) (encAVlist_reads _ rfl _ _ _ _)
theorem svcA1 (cond : BitVec 4) (imm24 : BitVec 24) : Statement (.svcA1 cond imm24) :=
  of_row (k := 8) rfl (encAImm24_hits rfl rfl _ _) (encAImm24_reads _ rfl _ _)
theorem blxImmA2 (h : BitVec 1) (imm24 : BitVec 24) : Statement (.blxImmA2 h imm24) :=
  of_row (k := 9) rfl (encABlx_hits rfl rfl _ _) (encABlx_reads _ rfl _ _)
theorem bA1 (cond : BitVec 4) (imm24 : BitVec 24) : Statement (.bA1 cond imm24) :=
  of_row (k := 10) rfl (encAImm24_hits rfl rfl _ _) (encAImm24_reads _ rfl _ _)
theorem blImmA1 (cond : BitVec 4) (imm24 : BitVec 24) : Statement (.blImmA1 cond imm24) :=
  of_row (k := 11) rfl (encAImm24_hits rfl rfl _ _) (encAImm24_reads _ rfl _ _)
theorem blxRegA1 (cond : BitVec 4) (rm : BitVec 4) : Statement (.blxRegA1 cond rm) :=
  of_row (k := 12) rfl (encARm_hits rfl rfl _ _) (encARm_reads _ rfl _ _)
theorem bxA1 (cond : BitVec 4) (rm : BitVec 4) : Statement (.bxA1 cond rm) :=
  of_row (k := 13) rfl (encARm_hits rfl rfl _ _) (encARm_reads _ rfl _ _)
theorem adcImmA1 (cond : BitVec 4) (setS : Bool) (rn : BitVec 4) (rd : BitVec 4) (imm12 : BitVec 12) : Statement (.adcImmA1 cond setS rn rd imm12) :=
  of_row (k := 14) rfl (encADpImm_hits rfl rfl _ _ _ _ _) (encADpImm_reads _ rfl _ _ _ _ _)
theorem adcRegA1 (cond : BitVec 4) (setS : Bool) (rn : BitVec 4) (rd : BitVec 4) (imm5 : BitVec 5) (ty : BitVec 2) (rm : BitVec 4) : Statement (.adcRegA1 cond setS rn rd imm5 ty rm) :=
  of_row (k := 15) rfl (encADpReg_hits rfl rfl _ _ _ _ _ _ _) (encADpReg_reads _ rfl _ _ _ _ _ _ _)
theorem addImmA1 (cond : BitVec 4) (setS : Bool) (rn : BitVec 4) (rd : BitVec 4) (imm12 : BitVec 12) : Statement (.addImmA1 cond setS rn rd imm12) :=
  of_row (k := 16) rfl (encADpImm_hits rfl rfl _ _ _ _ _) (encADpImm_reads _ rfl _ _ _ _ _)
theorem addRegA1 (cond : BitVec 4) (setS : Bool) (rn : BitVec 4) (rd : BitVec 4) (imm5 : BitVec 5) (ty : BitVec 2) (rm : BitVec 4) : Statement (.addRegA1 cond setS rn rd imm5 ty rm) :=
  of_row (k := 17) rfl (encADpReg_hits rfl rfl _ _ _ _ _ _ _) (encADpReg_reads _ rfl _ _ _ _ _ _ _)
theorem andImmA1 (cond : BitVec 4) (setS : Bool) (rn : BitVec 4) (rd : BitVec 4) (imm12 : BitVec 12) : Statement (.andImmA1 cond setS rn rd imm12) :=
  of_row (k := 18) rfl (encADpImm_hits rfl rfl _ _ _ _ _) (encADpImm_reads _ rfl _ _ _ _ _)
theorem andRegA1 (cond : BitVec 4) (setS : Bool) (rn : BitVec 4) (rd : BitVec 4) (imm5 : BitVec 5) (ty : BitVec 2) (rm : BitVec 4) : Statement (.andRegA1 cond setS rn rd imm5 ty rm) :=
  of_row (k := 19) rfl (encADpReg_hits rfl rfl _ _ _ _ _ _ _) (encADpReg_reads _ rfl _ _ _ _ _ _ _)
theorem eorImmA1 (cond : BitVec 4) (setS : Bool) (rn : BitVec 4) (rd : BitVec 4) (imm12 : BitVec 12) : Statement (.eorImmA1 cond setS rn rd imm12) :=
  of_row (k := 20) rfl (encADpImm_hits rfl rfl _ _ _ _ _) (encADpImm_reads _ rfl _ _ _ _ _)
theorem eorRegA1 (cond : BitVec 4) (setS : Bool) (rn : BitVec 4) (rd : BitVec 4) (imm5 : BitVec 5) (ty : BitVec 2) (rm : BitVec 4) : Statement (.eorRegA1 cond setS rn rd imm5 ty rm) :=
  of_row (k := 21) rfl (encADpReg_hits rfl rfl _ _ _ _ _ _ _) (encADpReg_reads _ rfl _ _ _ _ _ _ _)
theorem orrImmA1 (cond : BitVec 4) (setS : Bool) (rn : BitVec 4) (rd : BitVec 4) (imm12 : BitVec 12) : Statement (.orrImmA1 cond setS rn rd imm12) :=
  of_row (k := 22) rfl (encADpImm_hits rfl rfl _ _ _ _ _) (encADpImm_reads _ rfl _ _ _ _ _)
theorem orrRegA1 (cond : BitVec 4) (setS : Bool) (rn : BitVec 4) (rd : BitVec 4) (imm5 : BitVec 5) (ty : BitVec 2) (rm : BitVec 4) : Statement (.orrRegA1 cond setS rn rd imm5 ty rm) :=
  of_row (k := 23) rfl (encADpReg_hits rfl rfl _ _ _ _ _ _ _) (encADpReg_reads _ rfl _ _ _ _ _ _ _)
theorem rsbImmA1 (cond : BitVec 4) (setS : Bool) (rn : BitVec 4) (rd : BitVec 4) (imm12 : BitVec 12) : Statement (.rsbImmA1 cond setS rn rd imm12) :=
  of_row (k := 24) rfl (encADpImm_hits rfl rfl _ _ _ _ _) (encADpImm_reads _ rfl _ _ _ _ _)
theorem rsbRegA1 (cond : BitVec 4) (setS : Bool) (rn : BitVec 4) (rd : BitVec 4) (imm5 : BitVec 5) (ty : BitVec 2) (rm : BitVec 4) : Statement (.rsbRegA1 cond setS rn rd imm5 ty rm) :=
  of_row (k := 25) rfl (encADpReg_hits rfl rfl _ _ _ _ _ _ _) (encADpReg_reads _ rfl _ _ _ _ _ _ _)
theorem rscImmA1 (cond : BitVec 4) (setS : Bool) (rn : BitVec 4) (rd : BitVec 4) (imm12 : BitVec 12) : Statement (.rscImmA1 cond setS rn rd imm12) :=
  of_row (k := 26) rfl (encADpImm_hits rfl rfl _ _ _ _ _) (encADpImm_reads _ rfl _ _ _ _ _)
theorem rscRegA1 (cond : BitVec 4) (setS : Bool) (rn : BitVec 4) (rd : BitVec 4) (imm5 : BitVec 5) (ty : BitVec 2) (rm : BitVec 4) : Statement (.rscRegA1 cond setS rn rd imm5 ty rm) :=
  of_row (k := 27) rfl (encADpReg_hits rfl rfl _ _ _ _ _ _ _) (encADpReg_reads _ rfl _ _ _ _ _ _ _)
theorem subImmA1 (cond : BitVec 4) (setS : Bool) (rn : BitVec 4) (rd : BitVec 4) (imm12 : BitVec 12) : Statement (.subImmA1 cond setS rn rd imm12) :=
  of_row (k := 28) rfl (encADpImm_hits rfl rfl _ _ _ _ _) (encADpImm_reads _ rfl _ _ _ _ _)
theorem subRegA1 (cond : BitVec 4) (setS : Bool) (rn : BitVec 4) (rd : BitVec 4) (imm5 : BitVec 5) (ty : BitVec 2) (rm : BitVec 4) : Statement (.subRegA1 cond setS rn rd imm5 ty rm) :=
  of_row (k := 29) rfl (encADpReg_hits rfl rfl _ _ _ _ _ _ _) (encADpReg_reads _ rfl _ _ _ _ _ _ _)
theorem teqImmA1 (cond : BitVec 4) (rn : BitVec 4) (imm12 : BitVec 12) : Statement (.teqImmA1 cond rn imm12) :=
  of_row (k := 30) rfl (encACmpImm_hits rfl rfl _ _ _) (encACmpImm_reads _ rfl _ _ _)
theorem teqRegA1 (cond : BitVec 4) (rn : BitVec 4) (imm5 : BitVec 5) (ty : BitVec 2) (rm : BitVec 4) : Statement (.teqRegA1 cond rn imm5 ty rm) :=
  of_row (k := 31) rfl (encACmpReg_hits rfl rfl _ _ _ _ _) (encACmpReg_reads _ rfl _ _ _ _ _)
theorem tstImmA1 (cond : BitVec 4) (rn : BitVec 4) (imm12 : BitVec 12) : Statement (.tstImmA1 cond rn imm12) :=
  of_row (k := 32) rfl (encACmpImm_hits rfl rfl _ _ _) (encACmpImm_reads _ rfl _ _ _)
theorem tstRegA1 (cond : BitVec 4) (rn : BitVec 4) (imm5 : BitVec 5) (ty : BitVec 2) (rm : BitVec 4) : Statement (.tstRegA1 cond rn imm5 ty rm) :=
  of_row (k := 33) rfl (encACmpReg_hits rfl rfl _ _ _ _ _) (encACmpReg_reads _ rfl _ _ _ _ _)
theorem mvnImmA1 (cond : BitVec 4) (setS : Bool) (rd : BitVec 4) (imm12 : BitVec 12) : Statement (.mvnImmA1 cond setS rd imm12) :=
  of_row (k := 34) rfl (encAMvnImm_hits rfl rfl _ _ _ _) (encAMvnImm_reads _ rfl _ _ _ _)
theorem mvnRegA1 (cond : BitVec 4) (setS : Bool) (rd : BitVec 4) (imm5 : BitVec 5) (ty : BitVec 2) (rm : BitVec 4) : Statement (.mvnRegA1 cond setS rd imm5 ty rm) :=
  of_row (k := 35) rfl (encAMvnReg_hits rfl rfl _ _ _ _ _ _) (encAMvnReg_reads _ rfl _ _ _ _ _ _)
theorem cmnImmA1 (cond : BitVec 4) (rn : BitVec 4) (imm12 : BitVec 12) : Statement (.cmnImmA1 cond rn imm12) :=
  of_row (k := 36) rfl (encACmpImm_hits rfl rfl _ _ _) (encACmpImm_reads _ rfl _ _ _)
theorem cmnRegA1 (cond : BitVec 4) (rn : BitVec 4) (imm5 : BitVec 5) (ty : BitVec 2) (rm : BitVec 4) : Statement (.cmnRegA1 cond rn imm5 ty rm) :=
  of_row (k := 37) rfl (encACmpReg_hits rfl rfl _ _ _ _ _) (encACmpReg_reads _ rfl _ _ _ _ _)
theorem cmpImmA1 (cond : BitVec 4) (rn : BitVec 4) (imm12 : BitVec 12) : Statement (.cmpImmA1 cond rn imm12) :=
  of_row (k := 38) rfl (encACmpImm_hits rfl rfl _ _ _) (encACmpImm_reads _ rfl _ _ _)
theorem cmpRegA1 (cond : BitVec 4) (rn : BitVec 4) (imm5 : BitVec 5) (ty : BitVec 2) (rm : BitVec 4) : Statement (.cmpRegA1 cond rn imm5 ty rm) :=
  of_row (k := 39) rfl (encACmpReg_hits rfl rfl _ _ _ _ _) (encACmpReg_reads _ rfl _ _ _ _ _)
theorem asrImmA1 (cond : BitVec 4) (setS : Bool) (rd : BitVec 4) (imm5 : BitVec 5) (rm : BitVec 4) : Statement (.asrImmA1 cond setS rd imm5 rm) :=
  of_row (k := 40) rfl (encAShiftImm_hits rfl rfl _ _ _ _ _) (encAShiftImm_reads _ rfl _ _ _ _ _)
theorem asrRegA1 (cond : BitVec 4) (setS : Bool) (rd : BitVec 4) (rm : BitVec 4) (rn : BitVec 4) : Statement (.asrRegA1 cond setS rd rm rn) :=
  of_row (k := 41) rfl (encAShiftReg_hits rfl rfl _ _ _ _ _) (encAShiftReg_reads _ rfl _ _ _ _ _)
theorem lslImmA1 (cond : BitVec 4) (setS : Bool) (rd : BitVec 4) (imm5 : BitVec 5) (rm : BitVec 4) : Statement (.lslImmA1 cond setS rd imm5 rm) :=
  of_row (k := 42) rfl (encAShiftImm_hits rfl rfl _ _ _ _ _) (encAShiftImm_reads _ rfl _ _ _ _ _)
theorem lslRegA1 (cond : BitVec 4) (setS : Bool) (rd : BitVec 4) (rm : BitVec 4) (rn : BitVec 4) : Statement (.lslRegA1 cond setS rd rm rn) :=
  of_row (k := 43) rfl (encAShiftReg_hits rfl rfl _ _ _ _ _) (encAShiftReg_reads _ rfl _ _ _ _ _)
theorem lsrImmA1 (cond : BitVec 4) (setS : Bool) (rd : BitVec 4) (imm5 : BitVec 5) (rm : BitVec 4) : Statement (.lsrImmA1 cond setS rd imm5 rm) :=
  of_row (k := 44) rfl (encAShiftImm_hits rfl rfl _ _ _ _ _) (encAShiftImm_reads _ rfl _ _ _ _ _)
theorem lsrRegA1 (cond : BitVec 4) (setS : Bool) (rd : BitVec 4) (rm : BitVec 4) (rn : BitVec 4) : Statement (.lsrRegA1 cond setS rd rm rn) :=
  of_row (k := 45) rfl (encAShiftReg_hits rfl rfl _ _ _ _ _) (encAShiftReg_reads _ rfl _ _ _ _ _)
theorem rrxA1 (cond : BitVec 4) (setS : Bool) (rd : BitVec 4) (rm : BitVec 4) : Statement (.rrxA1 cond setS rd rm) :=
  of_row (k := 46) rfl (encARrx_hits rfl rfl _ _ _ _) (encARrx_reads _ rfl _ _ _ _)
theorem rorImmA1 (cond : BitVec 4) (setS : Bool) (rd : BitVec 4) (imm5 : BitVec 5) (rm : BitVec 4) : Statement (.rorImmA1 cond setS rd imm5 rm) :=
  of_row (k := 47) rfl (encAShiftImm_hits rfl rfl _ _ _ _ _) (encAShiftImm_reads _ rfl _ _ _ _ _)
theorem rorRegA1 (cond : BitVec 4) (setS : Bool) (rd : BitVec 4) (rm : BitVec 4) (rn : BitVec 4) : Statement (.rorRegA1 cond setS rd rm rn) :=
  of_row (k := 48) rfl (encAShiftReg_hits rfl rfl _ _ _ _ _) (encAShiftReg_reads _ rfl _ _ _ _ _)
theorem ldmA1 (cond : BitVec 4) (w : Bool) (rn : BitVec 4) (regs : BitVec 16) : Statement (.ldmA1 cond w rn regs) :=
  of_row (k := 49) rfl (encALdm_hits rfl rfl _ _ _ _) (encALdm_reads _ rfl _ _ _ _)
theorem ldmdaA1 (cond : BitVec 4) (w : Bool) (rn : BitVec 4) (regs : BitVec 16) : Statement (.ldmdaA1 cond w rn regs) :=
  of_row (k := 50) rfl (encALdm_hits rfl rfl _ _ _ _) (encALdm_reads _ rfl _ _ _ _)
theorem ldmdbA1 (cond : BitVec 4) (w : Bool) (rn : BitVec 4) (regs : BitVec 16) : Statement (.ldmdbA1 cond w rn regs) :=
  of_row (k := 51) rfl (encALdm_hits rfl rfl _ _ _ _) (encALdm_reads _ rfl _ _ _ _)
theorem ldmibA1 (cond : BitVec 4) (w : Bool) (rn : BitVec 4) (regs : BitVec 16) : Statement (.ldmibA1 cond w rn regs) :=
  of_row (k := 52) rfl (encALdm_hits rfl rfl _ _ _ _) (encALdm_reads _ rfl _ _ _ _)
theorem ldrLitA1 (cond : BitVec 4) (u : Bool) (rt : BitVec 4) (imm12 : BitVec 12) : Statement (.ldrLitA1 cond u rt imm12) :=
  of_row (k := 53) rfl (encALsLit_hits rfl rfl _ _ _ _) (encALsLit_reads _ rfl _ _ _ _)
theorem ldrImmA1 (cond : BitVec 4) (p : Bool) (u : Bool) (w : Bool) (rn : BitVec 4) (rt : BitVec 4) (imm12 : BitVec 12) : Statement (.ldrImmA1 cond p u w rn rt imm12) :=
  of_row (k := 54) rfl (encALsImm_hits rfl rfl _ _ _ _ _ _ _) (encALsImm_reads _ rfl _ _ _ _ _ _ _)
theorem ldrRegA1 (cond : BitVec 4) (p : Bool) (u : Bool) (w : Bool) (rn : BitVec 4) (rt : BitVec 4) (imm5 : BitVec 5) (ty : BitVec 2) (rm : BitVec 4) : Statement (.ldrRegA1 cond p u w rn rt imm5 ty rm) :=
  of_row (k := 55) rfl (encALsReg_hits rfl rfl _ _ _ _ _ _ _ _ _) (encALsReg_reads _ rfl _ _ _ _ _ _ _ _ _)
theorem ldrbLitA1 (cond : BitVec 4) (u : Bool) (rt : BitVec 4) (imm12 : BitVec 12) : Statement (.ldrbLitA1 cond u rt imm12) :=
  of_row (k := 56) rfl (encALsLit_hits rfl rfl _ _ _ _) (encALsLit_reads _ rfl _ _ _ _)
theorem ldrbImmA1 (cond : BitVec 4) (p : Bool) (u : Bool) (w : Bool) (rn : BitVec 4) (rt : BitVec 4) (imm12 : BitVec 12) : Statement (.ldrbImmA1 cond p u w rn rt imm12) :=
  of_row (k := 57) rfl (encALsImm_hits rfl rfl _ _ _ _ _ _ _) (encALsImm_reads _ rfl _ _ _ _ _ _ _)
theorem ldrbRegA1 (cond : BitVec 4) (p : Bool) (u : Bool) (w : Bool) (rn : BitVec 4) (rt : BitVec 4) (imm5 : BitVec 5) (ty : BitVec 2) (rm : BitVec 4) : Statement (.ldrbRegA1 cond p u w rn rt imm5 ty rm) :=
  of_row (k := 58) rfl (encALsReg_hits rfl rfl _ _ _ _ _ _ _ _ _) (encALsReg_reads _ rfl _ _ _ _ _ _ _ _ _)
theorem stmA1 (cond : BitVec 4) (w : Bool) (rn : BitVec 4) (regs : BitVec 16) : Statement (.stmA1 cond w rn regs) :=
  of_row (k := 59) rfl (encALdm_hits rfl rfl _ _ _ _) (encALdm_reads _ rfl _ _ _ _)
theorem stmdaA1 (cond : BitVec 4) (w : Bool) (rn : BitVec 4) (regs : BitVec 16) : Statement (.stmdaA1 cond w rn regs) :=
  of_row (k := 60) rfl (encALdm_hits rfl rfl _ _ _ _) (encALdm_reads _ rfl _ _ _ _)
theorem stmdbA1 (cond : BitVec 4) (w : Bool) (rn : BitVec 4) (regs : BitVec 16) : Statement (.stmdbA1 cond w rn regs) :=
  of_row (k := 61) rfl (encALdm_hits rfl rfl _ _ _ _) (encALdm_reads _ rfl _ _ _ _)
theorem stmibA1 (cond : BitVec 4) (w : Bool) (rn : BitVec 4) (regs : BitVec 16) : Statement (.stmibA1 cond w rn regs) :=
  of_row (k := 62) rfl (encALdm_hits rfl rfl _ _ _ _) (encALdm_reads _ rfl _ _ _ _)
theorem strImmA1 (cond : BitVec 4) (p : Bool) (u : Bool) (w : Bool) (rn : BitVec 4) (rt : BitVec 4) (imm12 : BitVec 12) : Statement (.strImmA1 cond p u w rn rt imm12) :=
  of_row (k := 63) rfl (encALsImm_hits rfl rfl _ _ _ _ _ _ _) (encALsImm_reads _ rfl _ _ _ _ _ _ _)
theorem strRegA1 (cond : BitVec 4) (p : Bool) (u : Bool) (w : Bool) (rn : BitVec 4) (rt : BitVec 4) (imm5 : BitVec 5) (ty : BitVec 2) (rm : BitVec 4) : Statement (.strRegA1 cond p u w rn rt imm5 ty rm) :=
  of_row (k := 64) rfl (encALsReg_hits rfl rfl _ _ _ _ _ _ _ _ _) (encALsReg_reads _ rfl _ _ _ _ _ _ _ _ _)
theorem strbImmA1 (cond : BitVec 4) (p : Bool) (u : Bool) (w : Bool) (rn : BitVec 4) (rt : BitVec 4) (imm12 : BitVec 12) : Statement (.strbImmA1 cond p u w rn rt imm12) :=
  of_row (k := 65) rfl (encALsImm_hits rfl rfl _ _ _ _ _ _ _) (encALsImm_reads _ rfl _ _ _ _ _ _ _)
theorem strbRegA1 (cond : BitVec 4) (p : Bool) (u : Bool) (w : Bool) (rn : BitVec 4) (rt : BitVec 4) (imm5 : BitVec 5) (ty : BitVec 2) (rm : BitVec 4) : Statement (.strbRegA1 cond p u w rn rt imm5 ty rm) :=
  of_row (k := 66) rfl (encALsReg_hits rfl rfl _ _ _ _ _ _ _ _ _) (encALsReg_reads _ rfl _ _ _ _ _ _ _ _ _)
theorem pushT1 (m : Bool) (regs : BitVec 8) : Statement (.pushT1 m regs) :=
  of_row (k := 0) rfl (encT16Push_hits rfl rfl _ _) (encT16Push_reads _ rfl _ _)
theorem popT1 (p : Bool) (regs : BitVec 8) : Statement (.popT1 p regs) :=
  of_row (k := 1) rfl (encT16Pop_hits rfl rfl _ _) (encT16Pop_reads _ rfl _ _)
theorem addSpImmT1 (rd : BitVec 3) (imm8 : BitVec 8) : Statement (.addSpImmT1 rd imm8) :=
  of_row (k := 2) rfl (encT16Sprd_hits rfl rfl _ _) (encT16Sprd_reads _ rfl _ _)
theorem addSpImmT2 (imm7 : BitVec 7) : Statement (.addSpImmT2 imm7) :=
  of_row (k := 3) rfl (encT16Sp7_hits rfl rfl _) (encT16Sp7_reads _ rfl _)
theorem subSpImmT1 (imm7 : BitVec 7) : Statement (.subSpImmT1 imm7) :=
  of_row (k := 4) rfl (encT16Sp7_hits rfl rfl _) (encT16Sp7_reads _ rfl _)
theorem svcT1 (imm8 : BitVec 8) : Statement (.svcT1 imm8) :=
  of_row (k := 5) rfl (encT16Imm8_hits rfl rfl _) (encT16Imm8_reads _ rfl _)
theorem bT1 (cond : BitVec 4) (imm8 : BitVec 8) : Statement (.bT1 cond imm8) :=
  of_row (k := 6) rfl (encT16Bcond_hits rfl rfl _ _) (encT16Bcond_reads _ rfl _ _)
theorem bT2 (imm11 : BitVec 11) : Statement (.bT2 imm11) :=
  of_row (k := 7) rfl (encT16B_hits rfl rfl _) (encT16B_reads _ rfl _)
theorem blxRegT1 (rm : BitVec 4) : Statement (.blxRegT1 rm) :=
  of_row (k := 8) rfl (encT16Rm_hits rfl rfl _) (encT16Rm_reads _ rfl _)
theorem bxT1 (rm : BitVec 4) : Statement (.bxT1 rm) :=
  of_row (k := 9) rfl (encT16Rm_hits rfl rfl _) (encT16Rm_reads _ rfl _)
theorem cbzT1 (i1 : BitVec 1) (imm5 : BitVec 5) (rn : BitVec 3) : Statement (.cbzT1 i1 imm5 rn) :=
  of_row (k := 10) rfl (encT16Cb_hits rfl rfl _ _ _) (encT16Cb_reads _ rfl _ _ _)
theorem cbnzT1 (i1 : BitVec 1) (imm5 : BitVec 5) (rn : BitVec 3) : Statement (.cbnzT1 i1 imm5 rn) :=
  of_row (k := 11) rfl (encT16Cb_hits rfl rfl _ _ _) (encT16Cb_reads _ rfl _ _ _)
theorem itT1 (firstcond : BitVec 4) (mask : BitVec 4) : Statement (.itT1 firstcond mask) :=
  of_row (k := 12) rfl (encT16It_hits rfl rfl _ _) (encT16It_reads _ rfl _ _)
theorem adcRegT1 (rm : BitVec 3) (rdn : BitVec 3) : Statement (.adcRegT1 rm rdn) :=
  of_row (k := 13) rfl (encT16Dp_hits rfl rfl _ _) (encT16Dp_reads _ rfl _ _)
theorem addImmT1 (imm3 : BitVec 3) (rn : BitVec 3) (rd : BitVec 3) : Statement (.addImmT1 imm3 rn rd) :=
  of_row (k := 14) rfl (encT16Imm3_hits rfl rfl _ _ _) (encT16Imm3_reads _ rfl _ _ _)
theorem addImmT2 (rdn : BitVec 3) (imm8 : BitVec 8) : Statement (.addImmT2 rdn imm8) :=
  of_row (k := 15) rfl (encT16RdnImm8_hits rfl rfl _ _) (encT16RdnImm8_reads _ rfl _ _)
theorem addRegT1 (rm : BitVec 3) (rn : BitVec 3) (rd : BitVec 3) : Statement (.addRegT1 rm rn rd) :=
  of_row (k := 16) rfl (encT16Reg3_hits rfl rfl _ _ _) (encT16Reg3_reads _ rfl _ _ _)
theorem addRegT2 (dn : BitVec 1) (rm : BitVec 4) (rdn : BitVec 3) : Statement (.addRegT2 dn rm rdn) :=
  of_row (k := 17) rfl (encT16Hi_hits rfl rfl _ _ _) (encT16Hi_reads _ rfl _ _ _)
theorem andRegT1 (rm : BitVec 3) (rdn : BitVec 3) : Statement (.andRegT1 rm rdn) :=
  of_row (k := 18) rfl (encT16Dp_hits rfl rfl _ _) (encT16Dp_reads _ rfl _ _)
theorem eorRegT1 (rm : BitVec 3) (rdn : BitVec 3) : Statement (.eorRegT1 rm rdn) :=
  of_row (k := 19) rfl (encT16Dp_hits rfl rfl _ _) (encT16Dp_reads _ rfl _ _)
theorem orrRegT1 (rm : BitVec 3) (rdn : BitVec 3) : Statement (.orrRegT1 rm rdn) :=
  of_row (k := 20) rfl (encT16Dp_hits rfl rfl _ _) (encT16Dp_reads _ rfl _ _)
theorem mvnRegT1 (rm : BitVec 3) (rd : BitVec 3) : Statement (.mvnRegT1 rm rd) :=
  of_row (k := 21) rfl (encT16Dp_hits rfl rfl _ _) (encT16Dp_reads _ rfl _ _)
theorem rsbImmT1 (rn : BitVec 3) (rd : BitVec 3) : Statement (.rsbImmT1 rn rd) :=
  of_row (k := 22) rfl (encT16Dp_hits rfl rfl _ _) (encT16Dp_reads _ rfl _ _)
theorem subImmT1 (imm3 : BitVec 3) (rn : BitVec 3) (rd : BitVec 3) : Statement (.subImmT1 imm3 rn rd) :=
  of_row (k := 23) rfl (encT16Imm3_hits rfl rfl _ _ _) (encT16Imm3_reads _ rfl _ _ _)
theorem subImmT2 (rdn : BitVec 3) (imm8 : BitVec 8) : Statement (.subImmT2 rdn imm8) :=
  of_row (k := 24) rfl (encT16RdnImm8_hits rfl rfl _ _) (encT16RdnImm8_reads _ rfl _ _)
theorem subRegT1 (rm : BitVec 3) (rn : BitVec 3) (rd : BitVec 3) : Statement (.subRegT1 rm rn rd) :=
  of_row (k := 25) rfl (encT16Reg3_hits rfl rfl _ _ _) (encT16Reg3_reads _ rfl _ _ _)
theorem cmpImmT1 (rn : BitVec 3) (imm8 : BitVec 8) : Statement (.cmpImmT1 rn imm8) :=
  of_row (k := 26) rfl (encT16RdnImm8_hits rfl rfl _ _) (encT16RdnImm8_reads _ rfl _ _)
theorem cmpRegT1 (rm : BitVec 3) (rn : BitVec 3) : Statement (.cmpRegT1 rm rn) :=
  of_row (k := 27) rfl (encT16Dp_hits rfl rfl _ _) (encT16Dp_reads _ rfl _ _)
theorem cmpRegT2 (nbit : BitVec 1) (rm : BitVec 4) (rn : BitVec 3) : Statement (.cmpRegT2 nbit rm rn) :=
  of_row (k := 28) rfl (encT16Hi_hits rfl rfl _ _ _) (encT16Hi_reads _ rfl _ _ _)
theorem cmnRegT1 (rm : BitVec 3) (rn : BitVec 3) : Statement (.cmnRegT1 rm rn) :=
  of_row (k := 29) rfl (encT16Dp_hits rfl rfl _ _) (encT16Dp_reads _ rfl _ _)
theorem tstRegT1 (rm : BitVec 3) (rn : BitVec 3) : Statement (.tstRegT1 rm rn) :=
  of_row (k := 30) rfl (encT16Dp_hits rfl rfl _ _) (encT16Dp_reads _ rfl _ _)
theorem asrImmT1 (imm5 : BitVec 5) (rm : BitVec 3) (rd : BitVec 3) : Statement (.asrImmT1 imm5 rm rd) :=
  of_row (k := 31) rfl (encT16ShiftImm_hits rfl rfl _ _ _) (encT16ShiftImm_reads _ rfl _ _ _)
theorem asrRegT1 (rm : BitVec 3) (rdn : BitVec 3) : Statement (.asrRegT1 rm rdn) :=
  of_row (k := 32) rfl (encT16Dp_hits rfl rfl _ _) (encT16Dp_reads _ rfl _ _)
theorem lslImmT1 (imm5 : BitVec 5) (rm : BitVec 3) (rd : BitVec 3) : Statement (.lslImmT1 imm5 rm rd) :=
  of_row (k := 33) rfl (encT16ShiftImm_hits rfl rfl _ _ _) (encT16ShiftImm_reads _ rfl _ _ _)
theorem lslRegT1 (rm : BitVec 3) (rdn : BitVec 3) : Statement (.lslRegT1 rm rdn) :=
  of_row (k := 34) rfl (encT16Dp_hits rfl rfl _ _) (encT16Dp_reads _ rfl _ _)
theorem lsrImmT1 (imm5 : BitVec 5) (rm : BitVec 3) (rd : BitVec 3) : Statement (.lsrImmT1 imm5 rm rd) :=
  of_row (k := 35) rfl (encT16ShiftImm_hits rfl rfl _ _ _) (encT16ShiftImm_reads _ rfl _ _ _)
theorem lsrRegT1 (rm : BitVec 3) (rdn : BitVec 3) : Statement (.lsrRegT1 rm rdn) :=
  of_row (k := 36) rfl (encT16Dp_hits rfl rfl _ _) (encT16Dp_reads _ rfl _ _)
theorem rorRegT1 (rm : BitVec 3) (rdn : BitVec 3) : Statement (.rorRegT1 rm rdn) :=
  of_row (k := 37) rfl (encT16Dp_hits rfl rfl _ _) (encT16Dp_reads _ rfl _ _)
theorem ldmT1 (rn : BitVec 3) (regs : BitVec 8) : Statement (.ldmT1 rn regs) :=
  of_row (k := 38) rfl (encT16Ldm_hits rfl rfl _ _) (encT16Ldm_reads _ rfl _ _)
theorem stmT1 (rn : BitVec 3) (regs : BitVec 8) : Statement (.stmT1 rn regs) :=
  of_row (k := 39) rfl (encT16Ldm_hits rfl rfl _ _) (encT16Ldm_reads _ rfl _ _)
theorem ldrImmT1 (imm5 : BitVec 5) (rn : BitVec 3) (rt : BitVec 3) : Statement (.ldrImmT1 imm5 rn rt) :=
  of_row (k := 40) rfl (encT16LsImm5_hits rfl rfl _ _ _) (encT16LsImm5_reads _ rfl _ _ _)
theorem ldrImmT2 (rt : BitVec 3) (imm8 : BitVec 8) : Statement (.ldrImmT2 rt imm8) :=
  of_row (k := 41) rfl (encT16RtImm8_hits rfl rfl _ _) (encT16RtImm8_reads _ rfl _ _)
theorem ldrLitT1 (rt : BitVec 3) (imm8 : BitVec 8) : Statement (.ldrLitT1 rt imm8) :=
  of_row (k := 42) rfl (encT16RtImm8_hits rfl rfl _ _) (encT16RtImm8_reads _ rfl _ _)
theorem ldrRegT1 (rm : BitVec 3) (rn : BitVec 3) (rt : BitVec 3) : Statement (.ldrRegT1 rm rn rt) :=
  of_row (k := 43) rfl (encT16LsReg_hits rfl rfl _ _ _) (encT16LsReg_reads _ rfl _ _ _)
theorem strImmT1 (imm5 : BitVec 5) (rn : BitVec 3) (rt : BitVec 3) : Statement (.strImmT1 imm5 rn rt) :=
  of_row (k := 44) rfl (encT16LsImm5_hits rfl rfl _ _ _) (encT16LsImm5_reads _ rfl _ _ _)
theorem strImmT2 (rt : BitVec 3) (imm8 : BitVec 8) : Statement (.strImmT2 rt imm8) :=
  of_row (k := 45) rfl (encT16RtImm8_hits rfl rfl _ _) (encT16RtImm8_reads _ rfl _ _)
theorem strRegT1 (rm : BitVec 3) (rn : BitVec 3) (rt : BitVec 3) : Statement (.strRegT1 rm rn rt) :=
  of_row (k := 46) rfl (encT16LsReg_hits rfl rfl _ _ _) (encT16LsReg_reads _ rfl _ _ _)
theorem ldrbImmT1 (imm5 : BitVec 5) (rn : BitVec 3) (rt : BitVec 3) : Statement (.ldrbImmT1 imm5 rn rt) :=
  of_row (k := 47) rfl (encT16LsImm5_hits rfl rfl _ _ _) (encT16LsImm5_reads _ rfl _ _ _)
theorem ldrbRegT1 (rm : BitVec 3) (rn : BitVec 3) (rt : BitVec 3) : Statement (.ldrbRegT1 rm rn rt) :=
  of_row (k := 48) rfl (encT16LsReg_hits rfl rfl _ _ _) (encT16LsReg_reads _ rfl _ _ _)
theorem strbImmT1 (imm5 : BitVec 5) (rn : BitVec 3) (rt : BitVec 3) : Statement (.strbImmT1 imm5 rn rt) :=
  of_row (k := 49) rfl (encT16LsImm5_hits rfl rfl _ _ _) (encT16LsImm5_reads _ rfl _ _ _)
theorem strbRegT1 (rm : BitVec 3) (rn : BitVec 3) (rt : BitVec 3) : Statement (.strbRegT1 rm rn rt) :=
  of_row (k := 50) rfl (encT16LsReg_hits rfl rfl _ _ _) (encT16LsReg_reads _ rfl _ _ _)
theorem pushT2 (m : Bool) (regs : BitVec 13) : Statement (.pushT2 m regs) :=
  of_row (k := 0) rfl (encT32ReglistPush_hits rfl rfl _ _) (encT32ReglistPush_reads _ rfl _ _)
theorem pushT3 (rt : BitVec 4) : Statement (.pushT3 rt) :=
  of_row (k := 1) rfl (encT32Rt_hits rfl rfl _) (encT32Rt_reads _ rfl _)
theorem popT2 (p : Bool) (m : Bool) (regs : BitVec 13) : Statement (.popT2 p m regs) :=
  of_row (k := 2) rfl (encT32Reglist_hits rfl rfl _ _ _) (encT32Reglist_reads _ rfl _ _ _)
theorem popT3 (rt : BitVec 4) : Statement (.popT3 rt) :=
  of_row (k := 3) rfl (encT32Rt_hits rfl rfl _) (encT32Rt_reads _ rfl _)
theorem vpushT1 (dbit : BitVec 1) (vd : BitVec 4) (imm8 : BitVec 8) : Statement (.vpushT1 dbit vd imm8) :=
  of_row (k := 4) rfl (encT32Vlist_hits rfl rfl _ _ _) (encT32Vlist_reads _ rfl _ _ _)
theorem vpushT2 (dbit : BitVec 1) (vd : BitVec 4) (imm8 : BitVec 8) : Statement (.vpushT2 dbit vd imm8) :=
  of_row (k := 5) rfl (encT32Vlist_hits rfl rfl _ _ _) (encT32Vlist_reads _ rfl _ _ _)
theorem vpopT1 (dbit : BitVec 1) (vd : BitVec 4) (imm8 : BitVec 8) : Statement (.vpopT1 dbit vd imm8) :=
  of_row (k := 6) rfl (encT32Vlist_hits rfl rfl _ _ _) (encT32Vlist_reads _ rfl _ _ _)
theorem vpopT2 (dbit : BitVec 1) (vd : BitVec 4) (imm8 : BitVec 8) : Statement (.vpopT2 dbit vd imm8) :=
  of_row (k := 7) rfl (encT32Vlist_hits rfl rfl _ _ _) (encT32Vlist_reads _ rfl _ _ _)
theorem bT3 (sgn : BitVec 1) (cond : BitVec 4) (imm6 : BitVec 6) (j1 : BitVec 1) (j2 : BitVec 1) (imm11 : BitVec 11) : Statement (.bT3 sgn cond imm6 j1 j2 imm11) :=
  of_row (k := 8) rfl (encT32Bcond_hits rfl rfl _ _ _ _ _ _) (encT32Bcond_reads _ rfl _ _ _ _ _ _)
theorem bT4 (sgn : BitVec 1) (imm10 : BitVec 10) (j1 : BitVec 1) (j2 : BitVec 1) (imm11 : BitVec 11) : Statement (.bT4 sgn imm10 j1 j2 imm11) :=
  of_row (k := 9) rfl (encT32B_hits rfl rfl _ _ _ _ _) (encT32B_reads _ rfl _ _ _ _ _)
theorem blxImmT2 (sgn : BitVec 1) (imm10h : BitVec 10) (j1 : BitVec 1) (j2 : BitVec 1) (imm10l : BitVec 10) (h : BitVec 1) : Statement (.blxImmT2 sgn imm10h j1 j2 imm10l h) :=
  of_row (k := 10) rfl (encT32Blx_hits rfl rfl _ _ _ _ _ _) (encT32Blx_reads _ rfl _ _ _ _ _ _)
theorem blImmT1 (sgn : BitVec 1) (imm10 : BitVec 10) (j1 : BitVec 1) (j2 : BitVec 1) (imm11 : BitVec 11) : Statement (.blImmT1 sgn imm10 j1 j2 imm11) :=
  of_row (k := 11) rfl (encT32B_hits rfl rfl _ _ _ _ _) (encT32B_reads _ rfl _ _ _ _ _)
theorem tbbT1 (rn : BitVec 4) (rm : BitVec 4) : Statement (.tbbT1 rn rm) :=
  of_row (k := 12) rfl (encT32Tb_hits rfl rfl _ _) (encT32Tb_reads _ rfl _ _)
theorem tbhT1 (rn : BitVec 4) (rm : BitVec 4) : Statement (.tbhT1 rn rm) :=
  of_row (k := 13) rfl (encT32Tb_hits rfl rfl _ _) (encT32Tb_reads _ rfl _ _)
theorem cmnImmT1 (i1 : BitVec 1) (rn : BitVec 4) (imm3 : BitVec 3) (imm8 : BitVec 8) : Statement (.cmnImmT1 i1 rn imm3 imm8) :=
  of_row (k := 14) rfl (encT32ModimmCmp_hits rfl rfl _ _ _ _) (encT32ModimmCmp_reads _ rfl _ _ _ _)
theorem cmpImmT2 (i1 : BitVec 1) (rn : BitVec 4) (imm3 : BitVec 3) (imm8 : BitVec 8) : Statement (.cmpImmT2 i1 rn imm3 imm8) :=
  of_row (k := 15) rfl (encT32ModimmCmp_hits rfl rfl _ _ _ _) (encT32ModimmCmp_reads _ rfl _ _ _ _)
theorem tstImmT1 (i1 : BitVec 1) (rn : BitVec 4) (imm3 : BitVec 3) (imm8 : BitVec 8) : Statement (.tstImmT1 i1 rn imm3 imm8) :=
  of_row (k := 16) rfl (encT32ModimmCmp_hits rfl rfl _ _ _ _) (encT32ModimmCmp_reads _ rfl _ _ _ _)
theorem teqImmT1 (i1 : BitVec 1) (rn : BitVec 4) (imm3 : BitVec 3) (imm8 : BitVec 8) : Statement (.teqImmT1 i1 rn imm3 imm8) :=
  of_row (k := 17) rfl (encT32ModimmCmp_hits rfl rfl _ _ _ _) (encT32ModimmCmp_reads _ rfl _ _ _ _)
theorem cmnRegT2 (rn : BitVec 4) (imm3 : BitVec 3) (imm2 : BitVec 2) (ty : BitVec 2) (rm : BitVec 4) : Statement (.cmnRegT2 rn imm3 imm2 ty rm) :=
  of_row (k := 18) rfl (encT32DpRegCmp_hits rfl rfl _ _ _ _ _) (encT32DpRegCmp_reads _ rfl _ _ _ _ _)
theorem cmpRegT3 (rn : BitVec 4) (imm3 : BitVec 3) (imm2 : BitVec 2) (ty : BitVec 2) (rm : BitVec 4) : Statement (.cmpRegT3 rn imm3 imm2 ty rm) :=
  of_row (k := 19) rfl (encT32DpRegCmp_hits rfl rfl _ _ _ _ _) (encT32DpRegCmp_reads _ rfl _ _ _ _ _)
theorem tstRegT2 (rn : BitVec 4) (imm3 : BitVec 3) (imm2 : BitVec 2) (ty : BitVec 2) (rm : BitVec 4) : Statement (.tstRegT2 rn imm3 imm2 ty rm) :=
  of_row (k := 20) rfl (encT32DpRegCmp_hits rfl rfl _ _ _ _ _) (encT32DpRegCmp_reads _ rfl _ _ _ _ _)
theorem teqRegT1 (rn : BitVec 4) (imm3 : BitVec 3) (imm2 : BitVec 2) (ty : BitVec 2) (rm : BitVec 4) : Statement (.teqRegT1 rn imm3 imm2 ty rm) :=
  of_row (k := 21) rfl (encT32DpRegCmp_hits rfl rfl _ _ _ _ _) (encT32DpRegCmp_reads _ rfl _ _ _ _ _)
theorem adcImmT1 (i1 : BitVec 1) (setS : Bool) (rn : BitVec 4) (imm3 : BitVec 3) (rd : BitVec 4) (imm8 : BitVec 8) : Statement (.adcImmT1 i1 setS rn imm3 rd imm8) :=
  of_row (k := 22) rfl (encT32Modimm_hits rfl rfl _ _ _ _ _ _) (encT32Modimm_reads _ rfl _ _ _ _ _ _)
theorem adcRegT2 (setS : Bool) (rn : BitVec 4) (imm3 : BitVec 3) (rd : BitVec 4) (imm2 : BitVec 2) (ty : BitVec 2) (rm : BitVec 4) : Statement (.adcRegT2 setS rn imm3 rd imm2 ty rm) :=
  of_row (k := 23) rfl (encT32DpReg_hits rfl rfl _ _ _ _ _ _ _) (encT32DpReg_reads _ rfl _ _ _ _ _ _ _)
theorem addImmT3 (i1 : BitVec 1) (setS : Bool) (rn : BitVec 4) (imm3 : BitVec 3) (rd : BitVec 4) (imm8 : BitVec 8) : Statement (.addImmT3 i1 setS rn imm3 rd imm8) :=
  of_row (k := 24) rfl (encT32Modimm_hits rfl rfl _ _ _ _ _ _) (encT32Modimm_reads _ rfl _ _ _ _ _ _)
theorem addImmT4 (i1 : BitVec 1) (rn : BitVec 4) (imm3 : BitVec 3) (rd : BitVec 4) (imm8 : BitVec 8) : Statement (.addImmT4 i1 rn imm3 rd imm8) :=
  of_row (k := 25) rfl (encT32Plain12_hits rfl rfl _ _ _ _ _) (encT32Plain12_reads _ rfl _ _ _ _ _)
theorem addRegT3 (setS : Bool) (rn : BitVec 4) (imm3 : BitVec 3) (rd : BitVec 4) (imm2 : BitVec 2) (ty : BitVec 2) (rm : BitVec 4) : Statement (.addRegT3 setS rn imm3 rd imm2 ty rm) :=
  of_row (k := 26) rfl (encT32DpReg_hits rfl rfl _ _ _ _ _ _ _) (encT32DpReg_reads _ rfl _ _ _ _ _ _ _)
theorem andImmT1 (i1 : BitVec 1) (setS : Bool) (rn : BitVec 4) (imm3 : BitVec 3) (rd : BitVec 4) (imm8 : BitVec 8) : Statement (.andImmT1 i1 setS rn imm3 rd imm8) :=
  of_row (k := 27) rfl (encT32Modimm_hits rfl rfl _ _ _ _ _ _) (encT32Modimm_reads _ rfl _ _ _ _ _ _)
theorem andRegT2 (setS : Bool) (rn : BitVec 4) (imm3 : BitVec 3) (rd : BitVec 4) (imm2 : BitVec 2) (ty : BitVec 2) (rm : BitVec 4) : Statement (.andRegT2 setS rn imm3 rd imm2 ty rm) :=
  of_row (k := 28) rfl (encT32DpReg_hits rfl rfl _ _ _ _ _ _ _) (encT32DpReg_reads _ rfl _ _ _ _ _ _ _)
theorem eorImmT1 (i1 : BitVec 1) (setS : Bool) (rn : BitVec 4) (imm3 : BitVec 3) (rd : BitVec 4) (imm8 : BitVec 8) : Statement (.eorImmT1 i1 setS rn imm3 rd imm8) :=
  of_row (k := 29) rfl (encT32Modimm_hits rfl rfl _ _ _ _ _ _) (encT32Modimm_reads _ rfl _ _ _ _ _ _)
theorem eorRegT2 (setS : Bool) (rn : BitVec 4) (imm3 : BitVec 3) (rd : BitVec 4) (imm2 : BitVec 2) (ty : BitVec 2) (rm : BitVec 4) : Statement (.eorRegT2 setS rn imm3 rd imm2 ty rm) :=
  of_row (k := 30) rfl (encT32DpReg_hits rfl rfl _ _ _ _ _ _ _) (encT32DpReg_reads _ rfl _ _ _ _ _ _ _)
theorem mvnImmT1 (i1 : BitVec 1) (setS : Bool) (imm3 : BitVec 3) (rd : BitVec 4) (imm8 : BitVec 8) : Statement (.mvnImmT1 i1 setS imm3 rd imm8) :=
  of_row (k := 31) rfl (encT32ModimmMvn_hits rfl rfl _ _ _ _ _) (encT32ModimmMvn_reads _ rfl _ _ _ _ _)
theorem mvnRegT2 (setS : Bool) (imm3 : BitVec 3) (rd : BitVec 4) (imm2 : BitVec 2) (ty : BitVec 2) (rm : BitVec 4) : Statement (.mvnRegT2 setS imm3 rd imm2 ty rm) :=
  of_row (k := 32) rfl (encT32DpRegMvn_hits rfl rfl _ _ _ _ _ _) (encT32DpRegMvn_reads _ rfl _ _ _ _ _ _)
theorem lslImmT2 (setS : Bool) (imm3 : BitVec 3) (rd : BitVec 4) (imm2 : BitVec 2) (rm : BitVec 4) : Statement (.lslImmT2 setS imm3 rd imm2 rm) :=
  of_row (k := 33) rfl (encT32ShiftImm_hits rfl rfl _ _ _ _ _) (encT32ShiftImm_reads _ rfl _ _ _ _ _)
theorem lsrImmT2 (setS : Bool) (imm3 : BitVec 3) (rd : BitVec 4) (imm2 : BitVec 2) (rm : BitVec 4) : Statement (.lsrImmT2 setS imm3 rd imm2 rm) :=
  of_row (k := 34) rfl (encT32ShiftImm_hits rfl rfl _ _ _ _ _) (encT32ShiftImm_reads _ rfl _ _ _ _ _)
theorem asrImmT2 (setS : Bool) (imm3 : BitVec 3) (rd : BitVec 4) (imm2 : BitVec 2) (rm : BitVec 4) : Statement (.asrImmT2 setS imm3 rd imm2 rm) :=
  of_row (k := 35) rfl (encT32ShiftImm_hits rfl rfl _ _ _ _ _) (encT32ShiftImm_reads _ rfl _ _ _ _ _)
theorem rrxT1 (setS : Bool) (rd : BitVec 4) (rm : BitVec 4) : Statement (.rrxT1 setS rd rm) :=
  of_row (k := 36) rfl (encT32Rrx_hits rfl rfl _ _ _) (encT32Rrx_reads _ rfl _ _ _)
theorem rorImmT1 (setS : Bool) (imm3 : BitVec 3) (rd : BitVec 4) (imm2 : BitVec 2) (rm : BitVec 4) : Statement (.rorImmT1 setS imm3 rd imm2 rm) :=
  of_row (k := 37) rfl (encT32ShiftImm_hits rfl rfl _ _ _ _ _) (encT32ShiftImm_reads _ rfl _ _ _ _ _)
theorem orrImmT1 (i1 : BitVec 1) (setS : Bool) (rn : BitVec 4) (imm3 : BitVec 3) (rd : BitVec 4) (imm8 : BitVec 8) : Statement (.orrImmT1 i1 setS rn imm3 rd imm8) :=
  of_row (k := 38) rfl (encT32Modimm_hits rfl rfl _ _ _ _ _ _) (encT32Modimm_reads _ rfl _ _ _ _ _ _)
theorem orrRegT2 (setS : Bool) (rn : BitVec 4) (imm3 : BitVec 3) (rd : BitVec 4) (imm2 : BitVec 2) (ty : BitVec 2) (rm : BitVec 4) : Statement (.orrRegT2 setS rn imm3 rd imm2 ty rm) :=
  of_row (k := 39) rfl (encT32DpReg_hits rfl rfl _ _ _ _ _ _ _) (encT32DpReg_reads _ rfl _ _ _ _ _ _ _)
theorem rsbImmT2 (i1 : BitVec 1) (setS : Bool) (rn : BitVec 4) (imm3 : BitVec 3) (rd : BitVec 4) (imm8 : BitVec 8) : Statement (.rsbImmT2 i1 setS rn imm3 rd imm8) :=
  of_row (k := 40) rfl (encT32Modimm_hits rfl rfl _ _ _ _ _ _) (encT32Modimm_reads _ rfl _ _ _ _ _ _)
theorem rsbRegT1 (setS : Bool) (rn : BitVec 4) (imm3 : BitVec 3) (rd : BitVec 4) (imm2 : BitVec 2) (ty : BitVec 2) (rm : BitVec 4) : Statement (.rsbRegT1 setS rn imm3 rd imm2 ty rm) :=
  of_row (k := 41) rfl (encT32DpReg_hits rfl rfl _ _ _ _ _ _ _) (encT32DpReg_reads _ rfl _ _ _ _ _ _ _)
theorem subImmT3 (i1 : BitVec 1) (setS : Bool) (rn : BitVec 4) (imm3 : BitVec 3) (rd : BitVec 4) (imm8 : BitVec 8) : Statement (.subImmT3 i1 setS rn imm3 rd imm8) :=
  of_row (k := 42) rfl (encT32Modimm_hits rfl rfl _ _ _ _ _ _) (encT32Modimm_reads _ rfl _ _ _ _ _ _)
theorem subImmT4 (i1 : BitVec 1) (rn : BitVec 4) (imm3 : BitVec 3) (rd : BitVec 4) (imm8 : BitVec 8) : Statement (.subImmT4 i1 rn imm3 rd imm8) :=
  of_row (k := 43) rfl (encT32Plain12_hits rfl rfl _ _ _ _ _) (encT32Plain12_reads _ rfl _ _ _ _ _)
theorem subRegT2 (setS : Bool) (rn : BitVec 4) (imm3 : BitVec 3) (rd : BitVec 4) (imm2 : BitVec 2) (ty : BitVec 2) (rm : BitVec 4) : Statement (.subRegT2 setS rn imm3 rd imm2 ty rm) :=
  of_row (k := 44) rfl (encT32DpReg_hits rfl rfl _ _ _ _ _ _ _) (encT32DpReg_reads _ rfl _ _ _ _ _ _ _)
theorem asrRegT2 (setS : Bool) (rn : BitVec 4) (rd : BitVec 4) (rm : BitVec 4) : Statement (.asrRegT2 setS rn rd rm) :=
  of_row (k := 45) rfl (encT32ShiftReg_hits rfl rfl _ _ _ _) (encT32ShiftReg_reads _ rfl _ _ _ _)
theorem lslRegT2 (setS : Bool) (rn : BitVec 4) (rd : BitVec 4) (rm : BitVec 4) : Statement (.lslRegT2 setS rn rd rm) :=
  of_row (k := 46) rfl (encT32ShiftReg_hits rfl rfl _ _ _ _) (encT32ShiftReg_reads _ rfl _ _ _ _)
theorem lsrRegT2 (setS : Bool) (rn : BitVec 4) (rd : BitVec 4) (rm : BitVec 4) : Statement (.lsrRegT2 setS rn rd rm) :=
  of_row (k := 47) rfl (encT32ShiftReg_hits rfl rfl _ _ _ _) (encT32ShiftReg_reads _ rfl _ _ _ _)
theorem rorRegT2 (setS : Bool) (rn : BitVec 4) (rd : BitVec 4) (rm : BitVec 4) : Statement (.rorRegT2 setS rn rd rm) :=
  of_row (k := 48) rfl (encT32ShiftReg_hits rfl rfl _ _ _ _) (encT32ShiftReg_reads _ rfl _ _ _ _)
theorem ldmT2 (w : Bool) (rn : BitVec 4) (p : Bool) (m : Bool) (regs : BitVec 13) : Statement (.ldmT2 w rn p m regs) :=
  of_row (k := 49) rfl (encT32Ldm_hits rfl rfl _ _ _ _ _) (encT32Ldm_reads _ rfl _ _ _ _ _)
theorem ldmdbT1 (w : Bool) (rn : BitVec 4) (p : Bool) (m : Bool) (regs : BitVec 13) : Statement (.ldmdbT1 w rn p m regs) :=
  of_row (k := 50) rfl (encT32Ldm_hits rfl rfl _ _ _ _ _) (encT32Ldm_reads _ rfl _ _ _ _ _)
theorem stmT2 (w : Bool) (rn : BitVec 4) (m : Bool) (regs : BitVec 13) : Statement (.stmT2 w rn m regs) :=
  of_row (k := 51) rfl (encT32LdmStore_hits rfl rfl _ _ _ _) (encT32LdmStore_reads _ rfl _ _ _ _)
theorem stmdbT1 (w : Bool) (rn : BitVec 4) (m : Bool) (regs : BitVec 13) : Statement (.stmdbT1 w rn m regs) :=
  of_row (k := 52) rfl (encT32LdmStore_hits rfl rfl _ _ _ _) (encT32LdmStore_reads _ rfl _ _ _ _)
theorem ldrLitT2 (u : Bool) (rt : BitVec 4) (imm12 : BitVec 12) : Statement (.ldrLitT2 u rt imm12) :=
  of_row (k := 53) rfl (encT32LsLit_hits rfl rfl _ _ _) (encT32LsLit_reads _ rfl _ _ _)
theorem ldrImmT3 (rn : BitVec 4) (rt : BitVec 4) (imm12 : BitVec 12) : Statement (.ldrImmT3 rn rt imm12) :=
  of_row (k := 54) rfl (encT32LsImm12_hits rfl rfl _ _ _) (encT32LsImm12_reads _ rfl _ _ _)
theorem ldrImmT4 (rn : BitVec 4) (rt : BitVec 4) (p : Bool) (u : Bool) (w : Bool) (imm8 : BitVec 8) : Statement (.ldrImmT4 rn rt p u w imm8) :=
  of_row (k := 55) rfl (encT32LsImm8_hits rfl rfl _ _ _ _ _ _) (encT32LsImm8_reads _ rfl _ _ _ _ _ _)
theorem ldrRegT2 (rn : BitVec 4) (rt : BitVec 4) (imm2 : BitVec 2) (rm : BitVec 4) : Statement (.ldrRegT2 rn rt imm2 rm) :=
  of_row (k := 56) rfl (encT32LsReg_hits rfl rfl _ _ _ _) (encT32LsReg_reads _ rfl _ _ _ _)
theorem ldrbLitT1 (u : Bool) (rt : BitVec 4) (imm12 : BitVec 12) : Statement (.ldrbLitT1 u rt imm12) :=
  of_row (k := 57) rfl (encT32LsLit_hits rfl rfl _ _ _) (encT32LsLit_reads _ rfl _ _ _)
theorem ldrbImmT2 (rn : BitVec 4) (rt : BitVec 4) (imm12 : BitVec 12) : Statement (.ldrbImmT2 rn rt imm12) :=
  of_row (k := 58) rfl (encT32LsImm12_hits rfl rfl _ _ _) (encT32LsImm12_reads _ rfl _ _ _)
theorem ldrbImmT3 (rn : BitVec 4) (rt : BitVec 4) (p : Bool) (u : Bool) (w : Bool) (imm8 : BitVec 8) : Statement (.ldrbImmT3 rn rt p u w imm8) :=
  of_row (k := 59) rfl (encT32LsImm8_hits rfl rfl _ _ _ _ _ _) (encT32LsImm8_reads _ rfl _ _ _ _ _ _)
theorem ldrbRegT2 (rn : BitVec 4) (rt : BitVec 4) (imm2 : BitVec 2) (rm : BitVec 4) : Statement (.ldrbRegT2 rn rt imm2 rm) :=
  of_row (k := 60) rfl (encT32LsReg_hits rfl rfl _ _ _ _) (encT32LsReg_reads _ rfl _ _ _ _)
theorem strImmT3 (rn : BitVec 4) (rt : BitVec 4) (imm12 : BitVec 12) : Statement (.strImmT3 rn rt imm12) :=
  of_row (k := 61) rfl (encT32LsImm12_hits rfl rfl _ _ _) (encT32LsImm12_reads _ rfl _ _ _)
theorem strImmT4 (rn : BitVec 4) (rt : BitVec 4) (p : Bool) (u : Bool) (w : Bool) (imm8 : BitVec 8) : Statement (.strImmT4 rn rt p u w imm8) :=
  of_row (k := 62) rfl (encT32LsImm8_hits rfl rfl _ _ _ _ _ _) (encT32LsImm8_reads _ rfl _ _ _ _ _ _)
theorem strRegT2 (rn : BitVec 4) (rt : BitVec 4) (imm2 : BitVec 2) (rm : BitVec 4) : Statement (.strRegT2 rn rt imm2 rm) :=
  of_row (k := 63) rfl (encT32LsReg_hits rfl rfl _ _ _ _) (encT32LsReg_reads _ rfl _ _ _ _)
theorem strbImmT2 (rn : BitVec 4) (rt : BitVec 4) (imm12 : BitVec 12) : Statement (.strbImmT2 rn rt imm12) :=
  of_row (k := 64) rfl (encT32LsImm12_hits rfl rfl _ _ _) (encT32LsImm12_reads _ rfl _ _ _)
theorem strbImmT3 (rn : BitVec 4) (rt : BitVec 4) (p : Bool) (u : Bool) (w : Bool) (imm8 : BitVec 8) : Statement (.strbImmT3 rn rt p u w imm8) :=
  of_row (k := 65) rfl (encT32LsImm8_hits rfl rfl _ _ _ _ _ _) (encT32LsImm8_reads _ rfl _ _ _ _ _ _)
theorem strbRegT2 (rn : BitVec 4) (rt : BitVec 4) (imm2 : BitVec 2) (rm : BitVec 4) : Statement (.strbRegT2 rn rt imm2 rm) :=
  of_row (k := 66) rfl (encT32LsReg_hits rfl rfl _ _ _ _) (encT32LsReg_reads _ rfl _ _ _ _)

end Sys2Proof.Laws.RowReadsBack
end

