-- ==== Sys2Proof/Laws/Ports.lean ====
section
/-! SUPPORT. What the four port calls leave alone, field by field (20_memory.md rule R60), and how the closure of
Laws/Closure.lean is shown from the port calls alone: a proof about every instruction looks at what one port call does. -/

namespace Sys2Proof.Machine

/-! ## Field by field -/

@[simp] theorem State.setReg_params (s : State) (r : PortReg) (v : DWord) : (s.setReg r v).params = s.params := by cases r <;> rfl
@[simp] theorem State.setReg_arch (s : State) (r : PortReg) (v : DWord) : (s.setReg r v).arch = s.arch := by cases r <;> rfl
@[simp] theorem State.setReg_mode (s : State) (r : PortReg) (v : DWord) : (s.setReg r v).mode = s.mode := by cases r <;> rfl
@[simp] theorem State.setReg_it (s : State) (r : PortReg) (v : DWord) : (s.setReg r v).it = s.it := by cases r <;> rfl
@[simp] theorem State.setReg_inst (s : State) (r : PortReg) (v : DWord) : (s.setReg r v).inst = s.inst := by cases r <;> rfl
@[simp] theorem State.setReg_fault (s : State) (r : PortReg) (v : DWord) : (s.setReg r v).fault = s.fault := by cases r <;> rfl
@[simp] theorem State.setReg_cpsrOut (s : State) (r : PortReg) (v : DWord) : (s.setReg r v).cpsrOut = s.cpsrOut := by cases r <;> rfl
@[simp] theorem State.setReg_refusals (s : State) (r : PortReg) (v : DWord) : (s.setReg r v).refusals = s.refusals := by cases r <;> rfl
@[simp] theorem State.setReg_draws (s : State) (r : PortReg) (v : DWord) : (s.setReg r v).draws = s.draws := by cases r <;> rfl
@[simp] theorem State.setReg_script (s : State) (r : PortReg) (v : DWord) : (s.setReg r v).script = s.script := by cases r <;> rfl
@[simp] theorem State.setReg_stopped (s : State) (r : PortReg) (v : DWord) : (s.setReg r v).stopped = s.stopped := by cases r <;> rfl
@[simp] theorem State.setReg_pcWritten (s : State) (r : PortReg) (v : DWord) : (s.setReg r v).pcWritten = s.pcWritten := by cases r <;> rfl
@[simp] theorem State.setReg_mem (s : State) (r : PortReg) (v : DWord) : (s.setReg r v).mem = s.mem := by cases r <;> rfl
@[simp] theorem State.setReg_trace (s : State) (r : PortReg) (v : DWord) : (s.setReg r v).trace = s.trace := by cases r <;> rfl

@[simp] theorem portWriteRegister_params (ctx : Context) (r : PortReg) (v : DWord) (s : State) :
    (portWriteRegister ctx r v s).2.params = s.params := by
  simp only [portWriteRegister, State.note]
  split <;> simp
@[simp] theorem portWriteRegister_arch (ctx : Context) (r : PortReg) (v : DWord) (s : State) :
    (portWriteRegister ctx r v s).2.arch = s.arch := by
  simp only [portWriteRegister, State.note]
  split <;> simp
@[simp] theorem portWriteRegister_mode (ctx : Context) (r : PortReg) (v : DWord) (s : State) :
    (portWriteRegister ctx r v s).2.mode = s.mode := by
  simp only [portWriteRegister, State.note]
  split <;> simp
@[simp] theorem portWriteRegister_it (ctx : Context) (r : PortReg) (v : DWord) (s : State) :
    (portWriteRegister ctx r v s).2.it = s.it := by
  simp only [portWriteRegister, State.note]
  split <;> simp
@[simp] theorem portWriteRegister_inst (ctx : Context) (r : PortReg) (v : DWord) (s : State) :
    (portWriteRegister ctx r v s).2.inst = s.inst := by
  simp only [portWriteRegister, State.note]
  split <;> simp
@[simp] theorem portWriteRegister_fault (ctx : Context) (r : PortReg) (v : DWord) (s : State) :
    (portWriteRegister ctx r v s).2.fault = s.fault := by
  simp only [portWriteRegister, State.note]
  split <;> simp
@[simp] theorem portWriteRegister_cpsrOut (ctx : Context) (r : PortReg) (v : DWord) (s : State) :
    (portWriteRegister ctx r v s).2.cpsrOut = s.cpsrOut := by
  simp only [portWriteRegister, State.note]
  split <;> simp
@[simp] theorem portWriteRegister_refusals (ctx : Context) (r : PortReg) (v : DWord) (s : State) :
    (portWriteRegister ctx r v s).2.refusals = s.refusals := by
  simp only [portWriteRegister, State.note]
  split <;> simp
@[simp] theorem portWriteRegister_draws (ctx : Context) (r : PortReg) (v : DWord) (s : State) :
    (portWriteRegister ctx r v s).2.draws = s.draws := by
  simp only [portWriteRegister, State.note]
  split <;> simp
@[simp] theorem portWriteRegister_script (ctx : Context) (r : PortReg) (v : DWord) (s : State) :
    (portWriteRegister ctx r v s).2.script = s.script := by
  simp only [portWriteRegister, State.note]
  split <;> simp
@[simp] theorem portWriteRegister_stopped (ctx : Context) (r : PortReg) (v : DWord) (s : State) :
    (portWriteRegister ctx r v s).2.stopped = s.stopped := by
  simp only [portWriteRegister, State.note]
  split <;> simp
@[simp] theorem portWriteRegister_mem (ctx : Context) (r : PortReg) (v : DWord) (s : State) :
    (portWriteRegister ctx r v s).2.mem = s.mem := by
  simp only [portWriteRegister, State.note]
  split <;> simp
@[simp] theorem portWriteRegister_pcWritten (ctx : Context) (r : PortReg) (v : DWord) (s : State) :
    (portWriteRegister ctx r v s).2.pcWritten = (s.pcWritten || r == PortReg.core 15) := by
  simp only [portWriteRegister, State.note]
  split <;> simp
@[simp] theorem portWriteRegister_trace (ctx : Context) (r : PortReg) (v : DWord) (s : State) :
    (portWriteRegister ctx r v s).2.trace = .writeRegister ctx r v (portWriteRegister ctx r v s).1 :: s.trace := by
  simp only [portWriteRegister, State.note]
  split <;> simp
@[simp] theorem portWriteMemory_params (ctx : Context) (a : Word) (n : Nat) (v : DWord) (s : State) :
    (portWriteMemory ctx a n v s).2.params = s.params := by
  simp only [portWriteMemory, State.note]
  split <;> rfl
@[simp] theorem portWriteMemory_arch (ctx : Context) (a : Word) (n : Nat) (v : DWord) (s : State) :
    (portWriteMemory ctx a n v s).2.arch = s.arch := by
  simp only [portWriteMemory, State.note]
  split <;> rfl
@[simp] theorem portWriteMemory_mode (ctx : Context) (a : Word) (n : Nat) (v : DWord) (s : State) :
    (portWriteMemory ctx a n v s).2.mode = s.mode := by
  simp only [portWriteMemory, State.note]
  split <;> rfl
@[simp] theorem portWriteMemory_it (ctx : Context) (a : Word) (n : Nat) (v : DWord) (s : State) :
    (portWriteMemory ctx a n v s).2.it = s.it := by
  simp only [portWriteMemory, State.note]
  split <;> rfl
@[simp] theorem portWriteMemory_inst (ctx : Context) (a : Word) (n : Nat) (v : DWord) (s : State) :
    (portWriteMemory ctx a n v s).2.inst = s.inst := by
  simp only [portWriteMemory, State.note]
  split <;> rfl
@[simp] theorem portWriteMemory_fault (ctx : Context) (a : Word) (n : Nat) (v : DWord) (s : State) :
    (portWriteMemory ctx a n v s).2.fault = s.fault := by
  simp only [portWriteMemory, State.note]
  split <;> rfl
@[simp] theorem portWriteMemory_cpsrOut (ctx : Context) (a : Word) (n : Nat) (v : DWord) (s : State) :
    (portWriteMemory ctx a n v s).2.cpsrOut = s.cpsrOut := by
  simp only [portWriteMemory, State.note]
  split <;> rfl
@[simp] theorem portWriteMemory_refusals (ctx : Context) (a : Word) (n : Nat) (v : DWord) (s : State) :
    (portWriteMemory ctx a n v s).2.refusals = s.refusals := by
  simp only [portWriteMemory, State.note]
  split <;> rfl
@[simp] theorem portWriteMemory_draws (ctx : Context) (a : Word) (n : Nat) (v : DWord) (s : State) :
    (portWriteMemory ctx a n v s).2.draws = s.draws := by
  simp only [portWriteMemory, State.note]
  split <;> rfl
@[simp] theorem portWriteMemory_script (ctx : Context) (a : Word) (n : Nat) (v : DWord) (s : State) :
    (portWriteMemory ctx a n v s).2.script = s.script := by
  simp only [portWriteMemory, State.note]
  split <;> rfl
@[simp] theorem portWriteMemory_stopped (ctx : Context) (a : Word) (n : Nat) (v : DWord) (s : State) :
    (portWriteMemory ctx a n v s).2.stopped = s.stopped := by
  simp only [portWriteMemory, State.note]
  split <;> rfl
@[simp] theorem portWriteMemory_pcWritten (ctx : Context) (a : Word) (n : Nat) (v : DWord) (s : State) :
    (portWriteMemory ctx a n v s).2.pcWritten = s.pcWritten := by
  simp only [portWriteMemory, State.note]
  split <;> rfl
@[simp] theorem portWriteMemory_core (ctx : Context) (a : Word) (n : Nat) (v : DWord) (s : State) :
    (portWriteMemory ctx a n v s).2.core = s.core := by
  simp only [portWriteMemory, State.note]
  split <;> rfl
@[simp] theorem portWriteMemory_status (ctx : Context) (a : Word) (n : Nat) (v : DWord) (s : State) :
    (portWriteMemory ctx a n v s).2.status = s.status := by
  simp only [portWriteMemory, State.note]
  split <;> rfl
@[simp] theorem portWriteMemory_ext (ctx : Context) (a : Word) (n : Nat) (v : DWord) (s : State) :
    (portWriteMemory ctx a n v s).2.ext = s.ext := by
  simp only [portWriteMemory, State.note]
  split <;> rfl
@[simp] theorem portWriteMemory_trace (ctx : Context) (a : Word) (n : Nat) (v : DWord) (s : State) :
    (portWriteMemory ctx a n v s).2.trace = .writeMemory ctx a n (lowBytes v n) (portWriteMemory ctx a n v s).1 :: s.trace := by
  simp only [portWriteMemory, State.note]
  split <;> rfl
theorem portWriteRegister_status_ok {ctx : Context} {v : DWord} {s : State}
    (h : (portWriteRegister ctx .status v s).1 = true) : (portWriteRegister ctx .status v s).2.status = v.setWidth 32 := by
  simp only [portWriteRegister] at h
  simp [portWriteRegister, State.note, h, State.setReg]
theorem portWriteRegister_status_other (ctx : Context) {r : PortReg} (v : DWord) (s : State) (h : r ≠ .status) :
    (portWriteRegister ctx r v s).2.status = s.status := by
  simp only [portWriteRegister, State.note]
  split
  · cases r with
    | core n => rfl
    | status => exact absurd rfl h
    | extSingle n => rfl
    | extDouble n => rfl
  · rfl
theorem portWriteMemory_mem (ctx : Context) (a : Word) (n : Nat) (v : DWord) (s : State) :
    (portWriteMemory ctx a n v s).2.mem =
      if (portWriteMemory ctx a n v s).1 then Memory.writeLE s.mem a v n else s.mem := by
  simp only [portWriteMemory, State.note]
  split <;> rename_i h <;> simp [h]
theorem portReadRegister_state (r : PortReg) (s : State) :
    (portReadRegister r s).2 = s.note (.readRegister r 0 (portReadRegister r s).1.1 (portReadRegister r s).1.2) := rfl
theorem portReadMemory_state (ctx : Context) (a : Word) (n : Nat) (s : State) :
    (portReadMemory ctx a n s).2 = s.note (.readMemory ctx a n (portReadMemory ctx a n s).1.1 (portReadMemory ctx a n s).1.2) := rfl

/-! ## The closure from the port calls -/

variable {R : State → State → Prop} {E : Failure → State → State → Prop}

theorem callRead_cases (f : State → (DWord × Bool) × State) (s : State) :
    (∃ v t, f s = ((v, true), t) ∧ callRead f s = .ok v t) ∨
    ∃ v t, f s = ((v, false), t) ∧ callRead f s = .error .accessFailure t := by
  rcases h : f s with ⟨⟨v, b⟩, t⟩
  cases b
  · exact .inr ⟨v, t, rfl, by simp [callRead, h]⟩
  · exact .inl ⟨v, t, rfl, by simp [callRead, h]⟩

theorem callWrite_cases (f : State → Bool × State) (s : State) :
    (∃ t, f s = (true, t) ∧ callWrite f s = .ok () t) ∨ ∃ t, f s = (false, t) ∧ callWrite f s = .error .accessFailure t := by
  rcases h : f s with ⟨b, t⟩
  cases b
  · exact .inr ⟨t, rfl, by simp [callWrite, h]⟩
  · exact .inl ⟨t, rfl, by simp [callWrite, h]⟩

theorem does_read {f : State → (DWord × Bool) × State}
    (h : ∀ s, ((f s).1.2 = true → R s (f s).2) ∧ ((f s).1.2 = false → E .accessFailure s (f s).2)) :
    Does R E (callRead f) := fun s => by
  have hs := h s
  rcases callRead_cases f s with ⟨v, t, e1, e2⟩ | ⟨v, t, e1, e2⟩ <;> rw [e1] at hs <;> rw [e2]
  · exact ⟨fun _ _ hu => (by cases hu; exact hs.1 rfl), fun _ _ hu => (by cases hu)⟩
  · exact ⟨fun _ _ hu => (by cases hu), fun _ _ hu => (by cases hu; exact hs.2 rfl)⟩

theorem does_write {f : State → Bool × State}
    (h : ∀ s, ((f s).1 = true → R s (f s).2) ∧ ((f s).1 = false → E .accessFailure s (f s).2)) :
    Does R E (callWrite f) := fun s => by
  have hs := h s
  rcases callWrite_cases f s with ⟨t, e1, e2⟩ | ⟨t, e1, e2⟩ <;> rw [e1] at hs <;> rw [e2]
  · exact ⟨fun _ _ hu => (by cases hu; exact hs.1 rfl), fun _ _ hu => (by cases hu)⟩
  · exact ⟨fun _ _ hu => (by cases hu), fun _ _ hu => (by cases hu; exact hs.2 rfl)⟩

/-- The closure from what one port call does: register and memory reads and writes, and a status write that goes with a new
staged value and, for `SelectInstrSet`, a new `MODE`. -/
theorem Closed.of_ports (refl : ∀ s, R s s) (trans : ∀ {s t u}, R s t → R t u → R s u)
    (tail : ∀ {f s t u}, R s t → E f t u → E f s u)
    (read : ∀ s c, c.isWrite = false → (c.ok = true → R s (s.note c)) ∧ (c.ok = false → E .accessFailure s (s.note c)))
    (write : ∀ s ctx r v, r ≠ .status → ((portWriteRegister ctx r v s).1 = true → R s (portWriteRegister ctx r v s).2) ∧
      ((portWriteRegister ctx r v s).1 = false → E .accessFailure s (portWriteRegister ctx r v s).2))
    (store : ∀ s ctx a n v, ((portWriteMemory ctx a n v s).1 = true → R s (portWriteMemory ctx a n v s).2) ∧
      ((portWriteMemory ctx a n v s).1 = false → E .accessFailure s (portWriteMemory ctx a n v s).2))
    (draw : ∀ s, R s { s with draws := s.draws + 1 })
    (flags : ∀ s r c v, let out := packFlags s.cpsrOut r c v
      let p := portWriteRegister .immediate .status (out.setWidth 64) { s with cpsrOut := out }
      (p.1 = true → R s p.2) ∧ (p.1 = false → E .accessFailure s p.2))
    (select : ∀ s set, let out := setBit s.cpsrOut 5 (set == .thumb)
      let p := portWriteRegister (.modeChange set) .status (out.setWidth 64) { s with cpsrOut := out }
      (p.1 = true → R s { p.2 with mode := modeOf set }) ∧ (p.1 = false → E .accessFailure s p.2)) : Closed R E where
  refl := refl
  trans := trans
  tail := tail
  readRegister r := does_read fun s => by
    rw [portReadRegister_state]
    exact read s (.readRegister r 0 _ _) rfl
  writeCore ctx n v := does_write fun s => write s ctx _ v (by simp)
  writeExt ctx l n v := does_write fun s => write s ctx _ v (by unfold ExtList.reg; split <;> simp)
  readMemory ctx a n := does_read fun s => by
    rw [portReadMemory_state]
    exact read s (.readMemory ctx a n _ _) rfl
  writeMemory ctx a n v := does_write fun s => store s ctx a n v
  draw := fun s => ⟨fun _ t h => (by cases h; exact draw s), fun _ _ h => (by cases h)⟩
  flags r c v := fun s => by
    have hs := flags s r c v
    have e : writeFlags r c v s = callWrite (portWriteRegister .immediate .status ((packFlags s.cpsrOut r c v).setWidth 64))
      { s with cpsrOut := packFlags s.cpsrOut r c v } := rfl
    rw [e]
    simp only [] at hs
    rcases callWrite_cases (portWriteRegister .immediate .status ((packFlags s.cpsrOut r c v).setWidth 64))
      { s with cpsrOut := packFlags s.cpsrOut r c v } with ⟨t, e1, e2⟩ | ⟨t, e1, e2⟩ <;> rw [e1] at hs <;> rw [e2]
    · exact ⟨fun _ _ hu => (by cases hu; exact hs.1 rfl), fun _ _ hu => (by cases hu)⟩
    · exact ⟨fun _ _ hu => (by cases hu), fun _ _ hu => (by cases hu; exact hs.2 rfl)⟩
  select set := fun s => by
    have hs := select s set
    by_cases hm : s.mode = modeOf set
    · have e : selectInstrSet set s = .ok () s := by simp [selectInstrSet, hm]
      rw [e]
      exact ⟨fun _ _ hu => (by cases hu; exact refl s), fun _ _ hu => (by cases hu)⟩
    · have e : selectInstrSet set s = (do
          writeStatus (.modeChange set) (setBit s.cpsrOut 5 (set == .thumb))
          modify fun t => { t with mode := modeOf set } : Handler Unit)
          { s with cpsrOut := setBit s.cpsrOut 5 (set == .thumb) } := by
        simp [selectInstrSet, hm]
      rw [e]
      simp only [handler_bind, writeStatus]
      rcases callWrite_cases (portWriteRegister (.modeChange set) .status ((setBit s.cpsrOut 5 (set == .thumb)).setWidth 64))
        { s with cpsrOut := setBit s.cpsrOut 5 (set == .thumb) } with ⟨t, e1, e2⟩ | ⟨t, e1, e2⟩ <;> simp only [e1] at hs <;> rw [e2]
      · exact ⟨fun _ _ hu => (by cases hu; exact hs.1 trivial), fun _ _ hu => (by cases hu)⟩
      · exact ⟨fun _ _ hu => (by cases hu), fun _ _ hu => (by cases hu; exact hs.2 trivial)⟩

end Sys2Proof.Machine
end

