-- ==== Sys2Proof/Laws/Tables.lean ====
section
/-! SUPPORT. Which rows of a decode table can match one word (30_encoding.md rules R92, R99): two rows whose patterns clash
never do, and the pairs that do not clash are listed, by position. With it the first matching row of a word is found from the
row that is known to match. -/

namespace Sys2Proof

/-- Two rows ask different values of a common bit. -/
def Row.clash (r r' : Row) : Bool := (r.value ^^^ r'.value) &&& (r.mask &&& r'.mask) != 0

theorem Row.clash_hits {r r' : Row} {w : Word} (h : r.clash r' = true) (hw : r'.hits w = true) : r.hits w = false := by
  by_contra hn
  have h1 : w &&& r.mask = r.value := by simpa [Row.hits] using hn
  have h2 : w &&& r'.mask = r'.value := by simpa [Row.hits] using hw
  have : (r.value ^^^ r'.value) &&& (r.mask &&& r'.mask) = 0 := by
    rw [← h1, ← h2]
    apply BitVec.eq_of_getLsbD_eq
    intro i hi
    simp only [BitVec.getLsbD_and, BitVec.getLsbD_xor]
    cases w.getLsbD i <;> cases r.mask.getLsbD i <;> cases r'.mask.getLsbD i <;> simp
  simp [Row.clash, this] at h

/-- The scan stops at a matching row that no earlier row forestalls (R92). -/
theorem lookupIn_first {w : Word} : ∀ {table : List Row} {k : Nat} {r : Row}, table[k]? = some r → r.hits w = true →
    (∀ j < k, ∀ r', table[j]? = some r' → r'.hits w = false) → lookupIn none w table = some (r.build w) := by
  intro table
  induction table with
  | nil => intro k r h; simp at h
  | cons x rest ih =>
    intro k r h hw hj
    cases k with
    | zero =>
      simp only [List.getElem?_cons_zero, Option.some.injEq] at h
      subst h
      simp [lookupIn, hw]
    | succ k =>
      have hx := hj 0 (by omega) x rfl
      simp only [lookupIn, hx, Bool.false_and, Bool.false_eq_true, if_false]
      exact ih (k := k) (by simpa using h) hw fun j hlt r' hr' => hj (j + 1) (by omega) r' (by simpa using hr')

/-- The pairs (earlier, later) of a table that do not clash are among these. -/
def overlapsOnly (table : List Row) (pairs : List (Nat × Nat)) : Bool :=
  (List.range table.length).all fun k => (List.range k).all fun j =>
    (match table[j]?, table[k]? with
      | some r, some r' => r.clash r'
      | _, _ => false) || pairs.contains (j, k)

/-- A matching row is the first where the earlier rows it overlaps do not match. -/
theorem lookupIn_of_overlaps {table : List Row} {pairs : List (Nat × Nat)} (h : overlapsOnly table pairs = true) {w : Word}
    {k : Nat} {r : Row} (hk : table[k]? = some r) (hw : r.hits w = true)
    (hp : ∀ j, pairs.contains (j, k) = true → ∀ r', table[j]? = some r' → r'.hits w = false) :
    lookupIn none w table = some (r.build w) := by
  refine lookupIn_first hk hw fun j hj r' hr' => ?_
  have hkl : k < table.length := by
    by_contra hn
    rw [List.getElem?_eq_none (by omega)] at hk
    simp at hk
  have h1 := List.all_eq_true.1 (List.all_eq_true.1 h k (List.mem_range.2 hkl)) j (List.mem_range.2 hj)
  rw [hr', hk] at h1
  simp only [Bool.or_eq_true] at h1
  rcases h1 with h1 | h1
  · exact Row.clash_hits h1 hw
  · exact hp j h1 r' hr'

/-- The overlapping rows of the table `armTable` (R100, R99). -/
def armOverlaps : List (Nat × Nat) :=
  [ (9, 10), (9, 11), (46, 47), (4, 49), (5, 54), (53, 54), (56, 57), (0, 61), (1, 63) ]

theorem armTable_overlaps : overlapsOnly armTable armOverlaps = true := by decide +kernel

/-- The overlapping rows of the table `thumb16Table` (R101, R99). -/
def thumb16Overlaps : List (Nat × Nat) :=
  [ (5, 6) ]

theorem thumb16Table_overlaps : overlapsOnly thumb16Table thumb16Overlaps = true := by decide +kernel

/-- The overlapping rows of the table `thumb32Table` (R101, R99). -/
def thumb32Overlaps : List (Nat × Nat) :=
  [ (14, 24), (18, 26), (16, 27), (20, 28), (17, 29), (21, 30), (36, 37), (33, 39), (34, 39), (35, 39),
    (36, 39), (37, 39), (15, 42), (19, 44), (2, 49), (0, 52), (53, 54), (3, 55), (53, 55), (53, 56),
    (57, 58), (57, 59), (57, 60), (1, 62) ]

theorem thumb32Table_overlaps : overlapsOnly thumb32Table thumb32Overlaps = true := by decide +kernel

end Sys2Proof
end

