-- ==== Sys2Proof/Tests/Slice0.lean ====
section
/-! SUPPORT. The author's own tests: the checks of WellFormed on ill-formed terms, the decoder on words written out from the
opcode table, one step of an instruction on the vectors of spec/95_test_vectors.md, and for each statement with hypotheses a
concrete state and operands that meet them. -/

namespace Sys2Proof.Tests

open Sys2Proof Sys2Proof.Machine

set_option Elab.async false

/-! ## Building a state and looking at a step -/

/-- The host as a test vector starts it: core registers not listed hold 0, memory not listed is unmapped. -/
def start (arch : ArchVariant) (cpsr pc : Word) (core : List (RegNum × Word)) (mem : List (Word × List Byte)) : State :=
  let s := core.foldl (fun s c => s.setCore c.1 c.2) { State.reset with arch := arch, status := cpsr }
  { s.setCore 15 pc with mem := mem.foldl (fun m r => storeBytes m r.1 r.2) [] }

/-- Doubleword extension registers set by the host. -/
def setExts (xs : List (BitVec 5 × DWord)) (s : State) : State := xs.foldl (fun s x => s.setExt x.1 x.2) s

/-- The session that an IT instruction with this byte leaves. -/
def inSession (byte : BitVec 8) (s : State) : State := { s with it := (initIT byte).getD s.it }

/-- A context tag without its payload, but for the immediate of SVC. -/
inductive Tag where
  | immediate | branch | stackPush | stackPop | adjustBaseRegister | adjustStackPointer | registerStore | registerLoad
  | registerPlusOffset | supervisorCall (imm32 : Word) | tableBranch | modeChange | advancePC | readOpcode | unknownValue
  deriving DecidableEq, Repr

/-- The tag of a context. -/
def tagOf : Context → Tag
  | .immediate => .immediate
  | .branch => .branch
  | .stackPush .. => .stackPush
  | .stackPop .. => .stackPop
  | .adjustBaseRegister .. => .adjustBaseRegister
  | .adjustStackPointer .. => .adjustStackPointer
  | .registerStore .. => .registerStore
  | .registerLoad .. => .registerLoad
  | .registerPlusOffset .. => .registerPlusOffset
  | .supervisorCall imm32 => .supervisorCall imm32
  | .tableBranch => .tableBranch
  | .modeChange .. => .modeChange
  | .advancePC => .advancePC
  | .readOpcode => .readOpcode
  | .unknownValue => .unknownValue

/-- A port write as a vector lists it; an UNKNOWN value is left out. -/
inductive Seen where
  | reg (t : Tag) (r : PortReg) (v : DWord)
  | mem (t : Tag) (a : Word) (n : Nat) (v : DWord)
  deriving DecidableEq, Repr

/-- A port write as a vector lists it. -/
def see : PortCall → Option Seen
  | .writeRegister c r v _ => some (.reg (tagOf c) r (if c = .unknownValue then 0 else v))
  | .writeMemory c a n v _ => some (.mem (tagOf c) a n (if c = .unknownValue then 0 else v))
  | .readRegister .. => none
  | .readMemory .. => none

/-- One step as a vector lists it: failure class, port writes in order, `IT.state`, `IT.remaining`. -/
def outcome (s : State) : Option (Option Failure × List Seen × BitVec 8 × Nat) :=
  match step s with
  | .next t => some (t.fault, t.trace.reverse.filterMap see, t.it.state, t.it.remaining)
  | .fault _ => none
  | .refused _ => none

/-! ## WellFormed: for each check a term it refuses, and beside it one that it takes (30_encoding.md rule R99) -/

theorem test_wellFormed_arm :
    (Instr.bA1 15 0).wellFormed = false ∧ (Instr.bA1 14 0).wellFormed = true ∧
    (Instr.blImmA1 15 0).wellFormed = false ∧ (Instr.blImmA1 14 0).wellFormed = true ∧
    (Instr.rorImmA1 14 false 1 0 2).wellFormed = false ∧ (Instr.rorImmA1 14 false 1 1 2).wellFormed = true ∧
    (Instr.ldmA1 14 true 13 1).wellFormed = false ∧ (Instr.ldmA1 14 false 13 1).wellFormed = true ∧
    (Instr.ldrImmA1 14 false true false 13 1 4).wellFormed = false ∧
    (Instr.ldrImmA1 14 false true false 13 1 8).wellFormed = true ∧
    (Instr.ldrImmA1 14 true true false 15 1 4).wellFormed = false ∧
    (Instr.ldrImmA1 14 true true true 15 1 4).wellFormed = true ∧
    (Instr.ldrbImmA1 14 true true false 15 1 4).wellFormed = false ∧
    (Instr.ldrbImmA1 14 true true false 14 1 4).wellFormed = true ∧
    (Instr.stmdbA1 14 true 13 1).wellFormed = false ∧ (Instr.stmdbA1 14 true 12 1).wellFormed = true ∧
    (Instr.strImmA1 14 true false true 13 1 4).wellFormed = false ∧
    (Instr.strImmA1 14 true true true 13 1 4).wellFormed = true := by
  and_intros <;> rfl

theorem test_wellFormed_thumb16 :
    (Instr.bT1 15 0).wellFormed = false ∧ (Instr.bT1 14 0).wellFormed = true := by
  and_intros <;> rfl

theorem test_wellFormed_thumb32_flags :
    (Instr.addImmT3 0 true 1 0 15 1).wellFormed = false ∧ (Instr.addImmT3 0 false 1 0 15 1).wellFormed = true ∧
    (Instr.addRegT3 true 1 0 15 0 0 2).wellFormed = false ∧ (Instr.addRegT3 true 1 0 14 0 0 2).wellFormed = true ∧
    (Instr.andImmT1 0 true 1 0 15 1).wellFormed = false ∧ (Instr.andImmT1 0 false 1 0 15 1).wellFormed = true ∧
    (Instr.andRegT2 true 1 0 15 0 0 2).wellFormed = false ∧ (Instr.andRegT2 true 1 0 14 0 0 2).wellFormed = true ∧
    (Instr.eorImmT1 0 true 1 0 15 1).wellFormed = false ∧ (Instr.eorImmT1 0 false 1 0 15 1).wellFormed = true ∧
    (Instr.eorRegT2 true 1 0 15 0 0 2).wellFormed = false ∧ (Instr.eorRegT2 true 1 0 14 0 0 2).wellFormed = true ∧
    (Instr.subImmT3 0 true 1 0 15 1).wellFormed = false ∧ (Instr.subImmT3 0 false 1 0 15 1).wellFormed = true ∧
    (Instr.subRegT2 true 1 0 15 0 0 2).wellFormed = false ∧ (Instr.subRegT2 true 1 0 14 0 0 2).wellFormed = true ∧
    (Instr.rorImmT1 false 0 1 0 2).wellFormed = false ∧ (Instr.rorImmT1 false 0 1 1 2).wellFormed = true ∧
    (Instr.orrRegT2 false 15 0 1 0 0 2).wellFormed = false ∧ (Instr.orrRegT2 false 14 0 1 0 0 2).wellFormed = true := by
  and_intros <;> rfl

theorem test_wellFormed_thumb32_memory :
    (Instr.ldmT2 true 13 false false 3).wellFormed = false ∧ (Instr.ldmT2 false 13 false false 3).wellFormed = true ∧
    (Instr.stmdbT1 true 13 false 3).wellFormed = false ∧ (Instr.stmdbT1 true 12 false 3).wellFormed = true ∧
    (Instr.ldrImmT3 15 1 0).wellFormed = false ∧ (Instr.ldrImmT3 14 1 0).wellFormed = true ∧
    (Instr.ldrImmT4 13 1 false true true 4).wellFormed = false ∧ (Instr.ldrImmT4 13 1 false true true 8).wellFormed = true ∧
    (Instr.ldrImmT4 15 1 true false true 4).wellFormed = false ∧ (Instr.ldrImmT4 14 1 true false true 4).wellFormed = true ∧
    (Instr.ldrRegT2 15 1 0 2).wellFormed = false ∧ (Instr.ldrRegT2 14 1 0 2).wellFormed = true ∧
    (Instr.ldrbImmT2 15 1 0).wellFormed = false ∧ (Instr.ldrbImmT2 14 1 0).wellFormed = true ∧
    (Instr.ldrbImmT3 15 1 true false true 4).wellFormed = false ∧ (Instr.ldrbImmT3 14 1 true false true 4).wellFormed = true ∧
    (Instr.ldrbRegT2 15 1 0 2).wellFormed = false ∧ (Instr.ldrbRegT2 14 1 0 2).wellFormed = true ∧
    (Instr.strImmT4 13 1 true false true 4).wellFormed = false ∧ (Instr.strImmT4 13 1 true false true 8).wellFormed = true := by
  and_intros <;> rfl


/-! ## Decoding: words written from the formats and fixed bits of the opcode table (30_encoding.md rules R100 to R104) -/

theorem test_decode_A_reglist :
    decode .arm .w32 0b1110_100100101101_1111001010101000 = some (.pushA1 14 0xf2a8) ∧
    decode .arm .w32 0b1110_100010111101_0110010100010100 = some (.popA1 14 0x6514) := by
  and_intros <;> rfl

theorem test_decode_A_rt :
    decode .arm .w32 0b1110_010100101101_0001_000000000100 = some (.pushA2 14 1) ∧
    decode .arm .w32 0b1110_010010011101_1110_000000000100 = some (.popA2 14 14) := by
  and_intros <;> rfl

theorem test_decode_A_vlist :
    decode .arm .w32 0b1110_11010_0_101101_0110_1011_10010110 = some (.vpushA1 14 0 6 150) ∧
    decode .arm .w32 0b1110_11010_0_101101_0001_1010_00010111 = some (.vpushA2 14 0 1 23) ∧
    decode .arm .w32 0b1110_11001_1_111101_0010_1011_00111110 = some (.vpopA1 14 1 2 62) ∧
    decode .arm .w32 0b1110_11001_1_111101_0001_1010_11010100 = some (.vpopA2 14 1 1 212) := by
  and_intros <;> rfl

theorem test_decode_A_imm24 :
    decode .arm .w32 0b1110_1111_000111111011000101111101 = some (.svcA1 14 0x1fb17d) ∧
    decode .arm .w32 0b1110_1010_101000010111000010110100 = some (.bA1 14 0xa170b4) ∧
    decode .arm .w32 0b1110_1011_100101010011111101001001 = some (.blImmA1 14 0x953f49) := by
  and_intros <;> rfl

theorem test_decode_A_blx :
    decode .arm .w32 0b1111101_0_100100111011110100000101 = some (.blxImmA2 0 0x93bd05) := by
  rfl

theorem test_decode_A_rm :
    decode .arm .w32 0b1110_000100101111111111110011_0111 = some (.blxRegA1 14 7) ∧
    decode .arm .w32 0b1110_000100101111111111110001_0100 = some (.bxA1 14 4) := by
  and_intros <;> rfl

theorem test_decode_A_dp_imm :
    decode .arm .w32 0b1110_0010101_0_0101_0111_001001001111 = some (.adcImmA1 14 false 5 7 0x24f) ∧
    decode .arm .w32 0b1110_0010100_0_1010_0101_100011110111 = some (.addImmA1 14 false 10 5 0x8f7) ∧
    decode .arm .w32 0b1110_0010000_0_0010_1010_100100100100 = some (.andImmA1 14 false 2 10 0x924) ∧
    decode .arm .w32 0b1110_0010001_0_0110_0010_100011000100 = some (.eorImmA1 14 false 6 2 0x8c4) ∧
    decode .arm .w32 0b1110_0011100_0_1010_0001_100111101000 = some (.orrImmA1 14 false 10 1 0x9e8) ∧
    decode .arm .w32 0b1110_0010011_1_1011_1001_011011011000 = some (.rsbImmA1 14 true 11 9 0x6d8) ∧
    decode .arm .w32 0b1110_0010111_1_1000_1010_111011000111 = some (.rscImmA1 14 true 8 10 0xec7) ∧
    decode .arm .w32 0b1110_0010010_1_0101_0100_110010110110 = some (.subImmA1 14 true 5 4 0xcb6) := by
  and_intros <;> rfl

theorem test_decode_A_dp_reg :
    decode .arm .w32 0b1110_0000101_0_0010_1010_01010_11_0_1000 = some (.adcRegA1 14 false 2 10 10 3 8) ∧
    decode .arm .w32 0b1110_0000100_1_1100_1000_01010_11_0_0010 = some (.addRegA1 14 true 12 8 10 3 2) ∧
    decode .arm .w32 0b1110_0000000_1_0011_1101_01011_01_0_1111 = some (.andRegA1 14 true 3 13 11 1 15) ∧
    decode .arm .w32 0b1110_0000001_1_0001_1011_00011_11_0_1010 = some (.eorRegA1 14 true 1 11 3 3 10) ∧
    decode .arm .w32 0b1110_0001100_1_0110_1100_01100_11_0_1000 = some (.orrRegA1 14 true 6 12 12 3 8) ∧
    decode .arm .w32 0b1110_0000011_1_0010_1110_00011_10_0_1000 = some (.rsbRegA1 14 true 2 14 3 2 8) ∧
    decode .arm .w32 0b1110_0000111_0_0001_1100_10111_10_0_1011 = some (.rscRegA1 14 false 1 12 23 2 11) ∧
    decode .arm .w32 0b1110_0000010_1_0101_1100_01101_11_0_0110 = some (.subRegA1 14 true 5 12 13 3 6) := by
  and_intros <;> rfl

theorem test_decode_A_cmp_imm :
    decode .arm .w32 0b1110_00110011_1000_0000_010110110000 = some (.teqImmA1 14 8 0x5b0) ∧
    decode .arm .w32 0b1110_00110001_1010_0000_000111100000 = some (.tstImmA1 14 10 0x1e0) ∧
    decode .arm .w32 0b1110_00110111_0001_0000_001101111110 = some (.cmnImmA1 14 1 0x37e) ∧
    decode .arm .w32 0b1110_00110101_0101_0000_001000010010 = some (.cmpImmA1 14 5 0x212) := by
  and_intros <;> rfl

theorem test_decode_A_cmp_reg :
    decode .arm .w32 0b1110_00010011_0100_0000_01101_10_0_1111 = some (.teqRegA1 14 4 13 2 15) ∧
    decode .arm .w32 0b1110_00010001_1000_0000_00011_01_0_1000 = some (.tstRegA1 14 8 3 1 8) ∧
    decode .arm .w32 0b1110_00010111_1001_0000_01001_01_0_1110 = some (.cmnRegA1 14 9 9 1 14) ∧
    decode .arm .w32 0b1110_00010101_1110_0000_10010_10_0_1100 = some (.cmpRegA1 14 14 18 2 12) := by
  and_intros <;> rfl

theorem test_decode_A_mvn_imm :
    decode .arm .w32 0b1110_0011111_1_0000_1011_111000100110 = some (.mvnImmA1 14 true 11 0xe26) := by
  rfl

theorem test_decode_A_mvn_reg :
    decode .arm .w32 0b1110_0001111_0_0000_0011_00011_01_0_0011 = some (.mvnRegA1 14 false 3 3 1 3) := by
  rfl

theorem test_decode_A_shift_imm :
    decode .arm .w32 0b1110_0001101_0_0000_0001_10000_100_1110 = some (.asrImmA1 14 false 1 16 14) ∧
    decode .arm .w32 0b1110_0001101_0_0000_0101_01010_000_0001 = some (.lslImmA1 14 false 5 10 1) ∧
    decode .arm .w32 0b1110_0001101_1_0000_1001_01100_010_1010 = some (.lsrImmA1 14 true 9 12 10) ∧
    decode .arm .w32 0b1110_0001101_1_0000_0011_10111_110_1110 = some (.rorImmA1 14 true 3 23 14) := by
  and_intros <;> rfl

theorem test_decode_A_shift_reg :
    decode .arm .w32 0b1110_0001101_0_0000_1000_1111_0101_1110 = some (.asrRegA1 14 false 8 15 14) ∧
    decode .arm .w32 0b1110_0001101_1_0000_0111_0111_0001_0111 = some (.lslRegA1 14 true 7 7 7) ∧
    decode .arm .w32 0b1110_0001101_1_0000_1011_0111_0011_0001 = some (.lsrRegA1 14 true 11 7 1) ∧
    decode .arm .w32 0b1110_0001101_0_0000_0100_1000_0111_0011 = some (.rorRegA1 14 false 4 8 3) := by
  and_intros <;> rfl

theorem test_decode_A_rrx :
    decode .arm .w32 0b1110_0001101_1_0000_1010_00000110_0001 = some (.rrxA1 14 true 10 1) := by
  rfl

theorem test_decode_A_ldm :
    decode .arm .w32 0b1110_100010_0_1_1010_0010011010111010 = some (.ldmA1 14 false 10 0x26ba) ∧
    decode .arm .w32 0b1110_100000_0_1_0110_1001110100011110 = some (.ldmdaA1 14 false 6 0x9d1e) ∧
    decode .arm .w32 0b1110_100100_0_1_1110_0011010100111101 = some (.ldmdbA1 14 false 14 0x353d) ∧
    decode .arm .w32 0b1110_100110_1_1_0011_1010001001101001 = some (.ldmibA1 14 true 3 0xa269) ∧
    decode .arm .w32 0b1110_100010_1_0_1010_0101110100111010 = some (.stmA1 14 true 10 0x5d3a) ∧
    decode .arm .w32 0b1110_100000_0_0_0010_1101100101010100 = some (.stmdaA1 14 false 2 0xd954) ∧
    decode .arm .w32 0b1110_100100_1_0_1000_0111101111011101 = some (.stmdbA1 14 true 8 0x7bdd) ∧
    decode .arm .w32 0b1110_100110_0_0_0011_0001101000101001 = some (.stmibA1 14 false 3 0x1a29) := by
  and_intros <;> rfl

theorem test_decode_A_ls_lit :
    decode .arm .w32 0b1110_0101_1_0011111_1100_010000111101 = some (.ldrLitA1 14 true 12 0x43d) ∧
    decode .arm .w32 0b1110_0101_0_1011111_1001_000001011111 = some (.ldrbLitA1 14 false 9 95) := by
  and_intros <;> rfl

theorem test_decode_A_ls_imm :
    decode .arm .w32 0b1110_010_1_0_0_0_1_1101_1001_010011000101 = some (.ldrImmA1 14 true false false 13 9 0x4c5) ∧
    decode .arm .w32 0b1110_010_0_1_1_1_1_1111_0011_010110110001 = some (.ldrbImmA1 14 false true true 15 3 0x5b1) ∧
    decode .arm .w32 0b1110_010_0_1_0_0_0_1010_1101_110010011110 = some (.strImmA1 14 false true false 10 13 0xc9e) ∧
    decode .arm .w32 0b1110_010_0_0_1_1_0_1100_1101_001110100001 = some (.strbImmA1 14 false false true 12 13 0x3a1) := by
  and_intros <;> rfl

theorem test_decode_A_ls_reg :
    decode .arm .w32 0b1110_011_1_1_0_0_1_0001_1101_01001_10_0_0101 = some (.ldrRegA1 14 true true false 1 13 9 2 5) ∧
    decode .arm .w32 0b1110_011_1_1_1_1_1_0110_0010_01000_01_0_0100 = some (.ldrbRegA1 14 true true true 6 2 8 1 4) ∧
    decode .arm .w32 0b1110_011_0_1_0_0_0_1000_1010_11101_11_0_1110 = some (.strRegA1 14 false true false 8 10 29 3 14) ∧
    decode .arm .w32 0b1110_011_1_1_1_0_0_1110_1011_00100_10_0_1101 = some (.strbRegA1 14 true true false 14 11 4 2 13) := by
  and_intros <;> rfl

theorem test_decode_T16_push :
    decode .thumb .w16 0b1011010_0_01111011 = some (.pushT1 false 123) := by
  rfl

theorem test_decode_T16_pop :
    decode .thumb .w16 0b1011110_0_01110000 = some (.popT1 false 112) := by
  rfl

theorem test_decode_T16_sprd :
    decode .thumb .w16 0b10101_111_10100011 = some (.addSpImmT1 7 163) := by
  rfl

theorem test_decode_T16_sp7 :
    decode .thumb .w16 0b101100000_0101011 = some (.addSpImmT2 43) ∧
    decode .thumb .w16 0b101100001_0001100 = some (.subSpImmT1 12) := by
  and_intros <;> rfl

theorem test_decode_T16_imm8 :
    decode .thumb .w16 0b11011111_11001110 = some (.svcT1 206) := by
  rfl

theorem test_decode_T16_bcond :
    decode .thumb .w16 0b1101_1100_01100110 = some (.bT1 12 102) := by
  rfl

theorem test_decode_T16_b :
    decode .thumb .w16 0b11100_01110110101 = some (.bT2 0x3b5) := by
  rfl

theorem test_decode_T16_rm :
    decode .thumb .w16 0b010001111_0111_000 = some (.blxRegT1 7) ∧
    decode .thumb .w16 0b010001110_1100_000 = some (.bxT1 12) := by
  and_intros <;> rfl

theorem test_decode_T16_cb :
    decode .thumb .w16 0b101100_0_1_11000_010 = some (.cbzT1 0 24 2) ∧
    decode .thumb .w16 0b101110_0_1_00101_001 = some (.cbnzT1 0 5 1) := by
  and_intros <;> rfl

theorem test_decode_T16_it :
    decode .thumb .w16 0b10111111_0011_1010 = some (.itT1 3 10) := by
  rfl

theorem test_decode_T16_dp :
    decode .thumb .w16 0b0100000101_100_111 = some (.adcRegT1 4 7) ∧
    decode .thumb .w16 0b0100000000_110_010 = some (.andRegT1 6 2) ∧
    decode .thumb .w16 0b0100000001_101_111 = some (.eorRegT1 5 7) ∧
    decode .thumb .w16 0b0100001100_101_100 = some (.orrRegT1 5 4) ∧
    decode .thumb .w16 0b0100001111_110_011 = some (.mvnRegT1 6 3) ∧
    decode .thumb .w16 0b0100001001_010_101 = some (.rsbImmT1 2 5) ∧
    decode .thumb .w16 0b0100001010_101_010 = some (.cmpRegT1 5 2) ∧
    decode .thumb .w16 0b0100001011_001_001 = some (.cmnRegT1 1 1) ∧
    decode .thumb .w16 0b0100001000_111_110 = some (.tstRegT1 7 6) ∧
    decode .thumb .w16 0b0100000100_110_001 = some (.asrRegT1 6 1) ∧
    decode .thumb .w16 0b0100000010_101_110 = some (.lslRegT1 5 6) ∧
    decode .thumb .w16 0b0100000011_010_100 = some (.lsrRegT1 2 4) ∧
    decode .thumb .w16 0b0100000111_111_010 = some (.rorRegT1 7 2) := by
  and_intros <;> rfl

theorem test_decode_T16_imm3 :
    decode .thumb .w16 0b0001110_111_111_010 = some (.addImmT1 7 7 2) ∧
    decode .thumb .w16 0b0001111_001_011_010 = some (.subImmT1 1 3 2) := by
  and_intros <;> rfl

theorem test_decode_T16_rdn_imm8 :
    decode .thumb .w16 0b00110_011_10000001 = some (.addImmT2 3 129) ∧
    decode .thumb .w16 0b00111_010_11000100 = some (.subImmT2 2 196) ∧
    decode .thumb .w16 0b00101_101_01010100 = some (.cmpImmT1 5 84) := by
  and_intros <;> rfl

theorem test_decode_T16_reg3 :
    decode .thumb .w16 0b0001100_011_101_100 = some (.addRegT1 3 5 4) ∧
    decode .thumb .w16 0b0001101_111_010_001 = some (.subRegT1 7 2 1) := by
  and_intros <;> rfl

theorem test_decode_T16_hi :
    decode .thumb .w16 0b01000100_1_1111_100 = some (.addRegT2 1 15 4) ∧
    decode .thumb .w16 0b01000101_1_1110_101 = some (.cmpRegT2 1 14 5) := by
  and_intros <;> rfl

theorem test_decode_T16_shift_imm :
    decode .thumb .w16 0b00010_00101_101_010 = some (.asrImmT1 5 5 2) ∧
    decode .thumb .w16 0b00000_10001_101_001 = some (.lslImmT1 17 5 1) ∧
    decode .thumb .w16 0b00001_11100_100_111 = some (.lsrImmT1 28 4 7) := by
  and_intros <;> rfl

theorem test_decode_T16_ldm :
    decode .thumb .w16 0b11001_010_10011100 = some (.ldmT1 2 156) ∧
    decode .thumb .w16 0b11000_001_11000111 = some (.stmT1 1 199) := by
  and_intros <;> rfl

theorem test_decode_T16_ls_imm5 :
    decode .thumb .w16 0b01101_11010_010_010 = some (.ldrImmT1 26 2 2) ∧
    decode .thumb .w16 0b01100_00101_100_101 = some (.strImmT1 5 4 5) ∧
    decode .thumb .w16 0b01111_11000_001_101 = some (.ldrbImmT1 24 1 5) ∧
    decode .thumb .w16 0b01110_00010_011_110 = some (.strbImmT1 2 3 6) := by
  and_intros <;> rfl

theorem test_decode_T16_rt_imm8 :
    decode .thumb .w16 0b10011_101_10001000 = some (.ldrImmT2 5 136) ∧
    decode .thumb .w16 0b01001_101_01111100 = some (.ldrLitT1 5 124) ∧
    decode .thumb .w16 0b10010_111_11000111 = some (.strImmT2 7 199) := by
  and_intros <;> rfl

theorem test_decode_T16_ls_reg :
    decode .thumb .w16 0b0101100_001_101_001 = some (.ldrRegT1 1 5 1) ∧
    decode .thumb .w16 0b0101000_010_010_011 = some (.strRegT1 2 2 3) ∧
    decode .thumb .w16 0b0101110_001_111_001 = some (.ldrbRegT1 1 7 1) ∧
    decode .thumb .w16 0b0101010_101_100_101 = some (.strbRegT1 5 4 5) := by
  and_intros <;> rfl

theorem test_decode_T32_reglist :
    decode .thumb .w32 0b11101001001011010_0_0_1100001010010 = some (.pushT2 false 0x1852) ∧
    decode .thumb .w32 0b1110100010111101_0_1_0_0101001101100 = some (.popT2 false true 0xa6c) := by
  and_intros <;> rfl

theorem test_decode_T32_rt :
    decode .thumb .w32 0b1111100001001101_1010_110100000100 = some (.pushT3 10) ∧
    decode .thumb .w32 0b1111100001011101_1001_101100000100 = some (.popT3 9) := by
  and_intros <;> rfl

theorem test_decode_T32_vlist :
    decode .thumb .w32 0b111011010_0_101101_1100_1011_01000111 = some (.vpushT1 0 12 71) ∧
    decode .thumb .w32 0b111011010_1_101101_1001_1010_10001001 = some (.vpushT2 1 9 137) ∧
    decode .thumb .w32 0b111011001_1_111101_1001_1011_11110010 = some (.vpopT1 1 9 242) ∧
    decode .thumb .w32 0b111011001_0_111101_1100_1010_10000110 = some (.vpopT2 0 12 134) := by
  and_intros <;> rfl

theorem test_decode_T32_bcond :
    decode .thumb .w32 0b11110_1_1111_100100_10_0_0_1_00100011001 = some (.bT3 1 15 36 0 1 0x119) := by
  rfl

theorem test_decode_T32_b :
    decode .thumb .w32 0b11110_1_0001111101_10_1_1_1_01010001000 = some (.bT4 1 125 1 1 0x288) ∧
    decode .thumb .w32 0b11110_0_1010110000_11_0_1_1_00010010110 = some (.blImmT1 0 0x2b0 0 1 150) := by
  and_intros <;> rfl

theorem test_decode_T32_blx :
    decode .thumb .w32 0b11110_0_1010101110_11_1_0_0_1110010111_0 = some (.blxImmT2 0 0x2ae 1 0 0x397 0) := by
  rfl

theorem test_decode_T32_tb :
    decode .thumb .w32 0b111010001101_1100_111100000000_1011 = some (.tbbT1 12 11) ∧
    decode .thumb .w32 0b111010001101_1011_111100000001_0110 = some (.tbhT1 11 6) := by
  and_intros <;> rfl

theorem test_decode_T32_modimm :
    decode .thumb .w32 0b11110_0_010001_0101_0_010_1111_11111000 = some (.cmnImmT1 0 5 2 248) ∧
    decode .thumb .w32 0b11110_1_011011_0100_0_110_1111_11110100 = some (.cmpImmT2 1 4 6 244) ∧
    decode .thumb .w32 0b11110_0_000001_0111_0_100_1111_00101010 = some (.tstImmT1 0 7 4 42) ∧
    decode .thumb .w32 0b11110_0_001001_0011_0_110_1111_01101111 = some (.teqImmT1 0 3 6 111) ∧
    decode .thumb .w32 0b11110_1_01010_1_0111_0_010_0110_01010010 = some (.adcImmT1 1 true 7 2 6 82) ∧
    decode .thumb .w32 0b11110_0_01000_1_0001_0_011_1001_01110110 = some (.addImmT3 0 true 1 3 9 118) ∧
    decode .thumb .w32 0b11110_1_00000_0_0111_0_011_1001_10100000 = some (.andImmT1 1 false 7 3 9 160) ∧
    decode .thumb .w32 0b11110_1_00100_0_0010_0_111_0100_11111001 = some (.eorImmT1 1 false 2 7 4 249) ∧
    decode .thumb .w32 0b11110_0_00011_0_11110_011_0101_00001011 = some (.mvnImmT1 0 false 3 5 11) ∧
    decode .thumb .w32 0b11110_0_00010_1_1101_0_010_1110_01101101 = some (.orrImmT1 0 true 13 2 14 109) ∧
    decode .thumb .w32 0b11110_1_01110_1_0011_0_101_1111_10000100 = some (.rsbImmT2 1 true 3 5 15 132) ∧
    decode .thumb .w32 0b11110_1_01101_1_0010_0_011_0001_11001101 = some (.subImmT3 1 true 2 3 1 205) := by
  and_intros <;> rfl

theorem test_decode_T32_dp_reg :
    decode .thumb .w32 0b111010110001_1100_0_010_1111_10_01_0101 = some (.cmnRegT2 12 2 2 1 5) ∧
    decode .thumb .w32 0b111010111011_0001_0_110_1111_01_10_0010 = some (.cmpRegT3 1 6 1 2 2) ∧
    decode .thumb .w32 0b111010100001_1010_0_111_1111_01_01_0101 = some (.tstRegT2 10 7 1 1 5) ∧
    decode .thumb .w32 0b111010101001_1110_0_001_1111_10_01_0110 = some (.teqRegT1 14 1 2 1 6) ∧
    decode .thumb .w32 0b11101011010_1_1111_0_011_1010_01_01_1001 = some (.adcRegT2 true 15 3 10 1 1 9) ∧
    decode .thumb .w32 0b11101011000_0_0010_0_010_0101_01_01_0100 = some (.addRegT3 false 2 2 5 1 1 4) ∧
    decode .thumb .w32 0b11101010000_1_1011_0_011_1001_01_10_1000 = some (.andRegT2 true 11 3 9 1 2 8) ∧
    decode .thumb .w32 0b11101010100_0_0101_0_011_1101_01_10_0001 = some (.eorRegT2 false 5 3 13 1 2 1) ∧
    decode .thumb .w32 0b11101010011_0_11110_001_1100_11_11_0100 = some (.mvnRegT2 false 1 12 3 3 4) ∧
    decode .thumb .w32 0b11101010010_1_0100_0_100_0010_11_11_0111 = some (.orrRegT2 true 4 4 2 3 3 7) ∧
    decode .thumb .w32 0b11101011110_1_1001_0_111_1111_10_11_0101 = some (.rsbRegT1 true 9 7 15 2 3 5) ∧
    decode .thumb .w32 0b11101011101_0_0100_0_011_0100_11_11_1011 = some (.subRegT2 false 4 3 4 3 3 11) := by
  and_intros <;> rfl

theorem test_decode_T32_plain12 :
    decode .thumb .w32 0b11110_0_100000_0111_0_011_0001_11010111 = some (.addImmT4 0 7 3 1 215) ∧
    decode .thumb .w32 0b11110_0_101010_0001_0_001_1011_10111110 = some (.subImmT4 0 1 1 11 190) := by
  and_intros <;> rfl

theorem test_decode_T32_shift_imm :
    decode .thumb .w32 0b11101010010_1_11110_100_0011_01_00_0010 = some (.lslImmT2 true 4 3 1 2) ∧
    decode .thumb .w32 0b11101010010_1_11110_111_1001_11_01_0101 = some (.lsrImmT2 true 7 9 3 5) ∧
    decode .thumb .w32 0b11101010010_0_11110_110_0101_01_10_1000 = some (.asrImmT2 false 6 5 1 8) ∧
    decode .thumb .w32 0b11101010010_0_11110_010_0101_10_11_0001 = some (.rorImmT1 false 2 5 2 1) := by
  and_intros <;> rfl

theorem test_decode_T32_rrx :
    decode .thumb .w32 0b11101010010_1_11110000_0110_0011_0110 = some (.rrxT1 true 6 6) := by
  rfl

theorem test_decode_T32_shift_reg :
    decode .thumb .w32 0b11111010010_1_0100_1111_0001_0000_1111 = some (.asrRegT2 true 4 1 15) ∧
    decode .thumb .w32 0b11111010000_1_0100_1111_0110_0000_0011 = some (.lslRegT2 true 4 6 3) ∧
    decode .thumb .w32 0b11111010001_0_0110_1111_0111_0000_0010 = some (.lsrRegT2 false 6 7 2) ∧
    decode .thumb .w32 0b11111010011_1_0101_1111_1001_0000_1011 = some (.rorRegT2 true 5 9 11) := by
  and_intros <;> rfl

theorem test_decode_T32_ldm :
    decode .thumb .w32 0b1110100010_0_1_0100_0_0_0_0100001110101 = some (.ldmT2 false 4 false false 0x875) ∧
    decode .thumb .w32 0b1110100100_0_1_0011_1_0_0_0110010011100 = some (.ldmdbT1 false 3 true false 0xc9c) ∧
    decode .thumb .w32 0b1110100010_0_0_0101_0_1_0_1010000100111 = some (.stmT2 false 5 true 0x1427) ∧
    decode .thumb .w32 0b1110100100_0_0_0010_0_0_0_1010100001011 = some (.stmdbT1 false 2 false 0x150b) := by
  and_intros <;> rfl

theorem test_decode_T32_ls_lit :
    decode .thumb .w32 0b11111000_1_1011111_1101_010100111000 = some (.ldrLitT2 true 13 0x538) ∧
    decode .thumb .w32 0b11111000_1_0011111_0011_010010001100 = some (.ldrbLitT1 true 3 0x48c) := by
  and_intros <;> rfl

theorem test_decode_T32_ls_imm12 :
    decode .thumb .w32 0b111110001101_1100_1010_101001001011 = some (.ldrImmT3 12 10 0xa4b) ∧
    decode .thumb .w32 0b111110001001_0011_0001_110100110011 = some (.ldrbImmT2 3 1 0xd33) ∧
    decode .thumb .w32 0b111110001100_1110_1100_111001000110 = some (.strImmT3 14 12 0xe46) ∧
    decode .thumb .w32 0b111110001000_1001_1011_011011011111 = some (.strbImmT2 9 11 0x6df) := by
  and_intros <;> rfl

theorem test_decode_T32_ls_imm8 :
    decode .thumb .w32 0b111110000101_1100_1100_1_0_0_0_00010110 = some (.ldrImmT4 12 12 false false false 22) ∧
    decode .thumb .w32 0b111110000001_0001_0001_1_0_1_0_01100001 = some (.ldrbImmT3 1 1 false true false 97) ∧
    decode .thumb .w32 0b111110000100_1110_1000_1_0_0_0_01111110 = some (.strImmT4 14 8 false false false 126) ∧
    decode .thumb .w32 0b111110000000_0101_0001_1_1_0_0_10101001 = some (.strbImmT3 5 1 true false false 169) := by
  and_intros <;> rfl

theorem test_decode_T32_ls_reg :
    decode .thumb .w32 0b111110000101_1001_0010_000000_11_1100 = some (.ldrRegT2 9 2 3 12) ∧
    decode .thumb .w32 0b111110000001_1000_0101_000000_01_1110 = some (.ldrbRegT2 8 5 1 14) ∧
    decode .thumb .w32 0b111110000100_0101_0100_000000_11_1101 = some (.strRegT2 5 4 3 13) ∧
    decode .thumb .w32 0b111110000000_0100_0100_000000_11_1011 = some (.strbRegT2 4 4 3 11) := by
  and_intros <;> rfl

/-! ## One step of an instruction: the vectors of spec/95_test_vectors.md

Each is one `Step()`; expected are the failure class, every port write in order with its tag, and the session after it. -/

-- push {r0,r1,lr}
theorem test_pushA1 :
    outcome (start .armv7 0x0 0x8000 [(0, 0xaaaa0000), (1, 0xbbbb1111), (13, 0x1040), (14, 0xcccc2222)] [(0x8000, [0x3, 0x40,
        0x2d, 0xe9])]) =
      some (none, [.mem .stackPush 0x1034 4 0xaaaa0000, .mem .stackPush 0x1038 4 0xbbbb1111,
          .mem .stackPush 0x103c 4 0xcccc2222, .reg .adjustStackPointer (.core 13) 0x1034,
          .reg .advancePC (.core 15) 0x8004], 0, 0) := by
  decide +kernel

-- push {r0,r1,lr}
theorem test_pushT1 :
    outcome (start .armv7 0x20 0x8000 [(0, 0xaaaa0000), (1, 0xbbbb1111), (13, 0x1040), (14, 0xcccc2222)] [(0x8000, [0x3,
        0xb5])]) =
      some (none, [.mem .stackPush 0x1034 4 0xaaaa0000, .mem .stackPush 0x1038 4 0xbbbb1111,
          .mem .stackPush 0x103c 4 0xcccc2222, .reg .adjustStackPointer (.core 13) 0x1034,
          .reg .advancePC (.core 15) 0x8002], 0, 0) := by
  decide +kernel

-- stmda r0,{r1,r2,r3}
theorem test_stmdaA1 :
    outcome (start .armv7 0x0 0x8000 [(0, 0x1020), (1, 1), (2, 2), (3, 3)] [(0x8000, [0xe, 0x0, 0x0, 0xe8])]) =
      some (none, [.mem .registerStore 0x1018 4 0x1, .mem .registerStore 0x101c 4 0x2, .mem .registerStore 0x1020 4 0x3,
          .reg .advancePC (.core 15) 0x8004], 0, 0) := by
  decide +kernel

-- stmib r0,{r1,r2,r3}
theorem test_stmibA1 :
    outcome (start .armv7 0x0 0x8000 [(0, 0x1020), (1, 1), (2, 2), (3, 3)] [(0x8000, [0xe, 0x0, 0x80, 0xe9])]) =
      some (none, [.mem .registerStore 0x1024 4 0x1, .mem .registerStore 0x1028 4 0x2, .mem .registerStore 0x102c 4 0x3,
          .reg .advancePC (.core 15) 0x8004], 0, 0) := by
  decide +kernel

-- bx r2
theorem test_bxA1 :
    outcome (start .armv7 0x0 0x8000 [(2, 0x9001)] [(0x8000, [0x12, 0xff, 0x2f, 0xe1])]) =
      some (none, [.reg .modeChange .status 0x20, .reg .branch (.core 15) 0x9000], 0, 0) := by
  decide +kernel

-- push {r4}
theorem test_pushA2 :
    outcome (start .armv7 0x0 0x8000 [(4, 0x12345678), (13, 0x1040)] [(0x8000, [0x4, 0x40, 0x2d, 0xe5])]) =
      some (none, [.mem .stackPush 0x103c 4 0x12345678, .reg .adjustStackPointer (.core 13) 0x103c,
          .reg .advancePC (.core 15) 0x8004], 0, 0) := by
  decide +kernel

-- push {r8}
theorem test_pushT3 :
    outcome (start .armv7 0x20 0x8000 [(8, 0x88), (13, 0x1040)] [(0x8000, [0x4d, 0xf8, 0x4, 0x8d])]) =
      some (none, [.mem .stackPush 0x103c 4 0x88, .reg .adjustStackPointer (.core 13) 0x103c,
          .reg .advancePC (.core 15) 0x8004], 0, 0) := by
  decide +kernel

-- push.w {r4,r8,lr}
theorem test_pushT2 :
    outcome (start .armv7 0x20 0x8000 [(4, 4), (8, 8), (13, 0x1040), (14, 0xe)] [(0x8000, [0x2d, 0xe9, 0x10, 0x41])]) =
      some (none, [.mem .stackPush 0x1034 4 0x4, .mem .stackPush 0x1038 4 0x8, .mem .stackPush 0x103c 4 0xe,
          .reg .adjustStackPointer (.core 13) 0x1034, .reg .advancePC (.core 15) 0x8004], 0, 0) := by
  decide +kernel

-- pop {r4,r7,pc}
theorem test_popT1 :
    outcome (start .armv7 0x20 0x8000 [(13, 0x1034)] [(0x1034, [0x44, 0x44, 0x44, 0x44, 0x77, 0x77, 0x77, 0x77, 0x1, 0x90,
        0x0, 0x0]), (0x8000, [0x90, 0xbd])]) =
      some (none, [.reg .stackPop (.core 4) 0x44444444, .reg .stackPop (.core 7) 0x77777777,
          .reg .stackPop (.core 15) 0x9000, .reg .adjustStackPointer (.core 13) 0x1040], 0, 0) := by
  decide +kernel

-- pop {r0,sp}
theorem test_popA1_unpredictableOperands :
    outcome (start .armv7 0x0 0x8000 [(13, 0x1038)] [(0x1038, [0x1, 0x0, 0x0, 0x0, 0x2, 0x0, 0x0, 0x0]), (0x8000, [0x1, 0x20,
        0xbd, 0xe8])]) =
      some ((some .unpredictableOperands), [], 0, 0) := by
  decide +kernel

-- pop {r4,pc} inside IT, not last, condition passes
theorem test_popT1_unpredictableOperands :
    outcome (inSession 0x4 (start .armv7 0x40000020 0x8000 [(13, 0x1038)] [(0x1038, [0x1, 0x0, 0x0, 0x0, 0x1, 0x90, 0x0,
        0x0]), (0x8000, [0x10, 0xbd])])) =
      some ((some .unpredictableOperands), [], 0x4, 2) := by
  decide +kernel

-- vpush {d8,d9}
theorem test_vpushA1 :
    outcome (setExts [(8, 0x1111111122222222), (9, 0x3333333344444444)] (start .armv7 0x0 0x8000 [(13, 0x1040)] [(0x8000,
        [0x4, 0x8b, 0x2d, 0xed])])) =
      some (none, [.mem .stackPush 0x1030 8 0x1111111122222222, .mem .stackPush 0x1038 8 0x3333333344444444,
          .reg .adjustStackPointer (.core 13) 0x1030, .reg .advancePC (.core 15) 0x8004], 0, 0) := by
  decide +kernel

-- vpop {d8,d9}
theorem test_vpopT1 :
    outcome (start .armv7 0x20 0x8000 [(13, 0x1030)] [(0x1030, [0x22, 0x22, 0x22, 0x22, 0x11, 0x11, 0x11, 0x11, 0x44, 0x44,
        0x44, 0x44, 0x33, 0x33, 0x33, 0x33]), (0x8000, [0xbd, 0xec, 0x4, 0x8b])]) =
      some (none, [.reg .stackPop (.extDouble 8) 0x1111111122222222, .reg .stackPop (.extDouble 9) 0x3333333344444444,
          .reg .adjustStackPointer (.core 13) 0x1040, .reg .advancePC (.core 15) 0x8004], 0, 0) := by
  decide +kernel

-- rscs r0,r1,r2
theorem test_rscRegA1 :
    outcome (start .armv7 0x0 0x8000 [(1, 1), (2, 3)] [(0x8000, [0x2, 0x0, 0xf1, 0xe0])]) =
      some (none, [.reg .immediate (.core 0) 0x1, .reg .immediate .status 0x20000000, .reg .advancePC (.core 15) 0x8004], 0,
          0) := by
  decide +kernel

-- cmn r0,#1
theorem test_cmnImmA1 :
    outcome (start .armv7 0x0 0x8000 [(0, 0xffffffff)] [(0x8000, [0x1, 0x0, 0x70, 0xe3])]) =
      some (none, [.reg .immediate .status 0x60000000, .reg .advancePC (.core 15) 0x8004], 0, 0) := by
  decide +kernel

-- adds r0,r1,#7
theorem test_addImmT1 :
    outcome (start .armv7 0x20 0x8000 [(1, 0xfffffffa)] [(0x8000, [0xc8, 0x1d])]) =
      some (none, [.reg .immediate (.core 0) 0x1, .reg .immediate .status 0x20000020, .reg .advancePC (.core 15) 0x8002], 0,
          0) := by
  decide +kernel

-- add r8,r1
theorem test_addRegT2 :
    outcome (start .armv7 0xf0000020 0x8000 [(1, 0x20), (8, 0x10)] [(0x8000, [0x88, 0x44])]) =
      some (none, [.reg .immediate (.core 8) 0x30, .reg .advancePC (.core 15) 0x8002], 0, 0) := by
  decide +kernel

-- add r7,sp,#8
theorem test_addSpImmT1 :
    outcome (start .armv7 0x20 0x8000 [(13, 0x1040)] [(0x8000, [0x2, 0xaf])]) =
      some (none, [.reg .registerPlusOffset (.core 7) 0x1048, .reg .advancePC (.core 15) 0x8002], 0, 0) := by
  decide +kernel

-- sub sp,#16
theorem test_subSpImmT1 :
    outcome (start .armv7 0x20 0x8000 [(13, 0x1040)] [(0x8000, [0x84, 0xb0])]) =
      some (none, [.reg .adjustStackPointer (.core 13) 0x1030, .reg .advancePC (.core 15) 0x8002], 0, 0) := by
  decide +kernel

-- subs r0,r1,r2
theorem test_subRegT1 :
    outcome (start .armv7 0x20 0x8000 [(1, 3), (2, 5)] [(0x8000, [0x88, 0x1a])]) =
      some (none, [.reg .immediate (.core 0) 0xfffffffe, .reg .immediate .status 0x80000020,
          .reg .advancePC (.core 15) 0x8002], 0, 0) := by
  decide +kernel

-- rsbs r0,r1,#0
theorem test_rsbImmT1 :
    outcome (start .armv7 0x20 0x8000 [(1, 0)] [(0x8000, [0x48, 0x42])]) =
      some (none, [.reg .immediate (.core 0) 0x0, .reg .immediate .status 0x60000020, .reg .advancePC (.core 15) 0x8002], 0,
          0) := by
  decide +kernel

-- cmp r8,r1
theorem test_cmpRegT2 :
    outcome (start .armv7 0x20 0x8000 [(1, 1), (8, 1)] [(0x8000, [0x88, 0x45])]) =
      some (none, [.reg .immediate .status 0x60000020, .reg .advancePC (.core 15) 0x8002], 0, 0) := by
  decide +kernel

-- cmp r0,#5
theorem test_cmpImmT1 :
    outcome (start .armv7 0x20 0x8000 [(0, 4)] [(0x8000, [0x5, 0x28])]) =
      some (none, [.reg .immediate .status 0x80000020, .reg .advancePC (.core 15) 0x8002], 0, 0) := by
  decide +kernel

-- subw r0,sp,#0xfff
theorem test_subImmT4 :
    outcome (start .armv7 0x20 0x8000 [(13, 0x2000)] [(0x8000, [0xad, 0xf6, 0xff, 0x70])]) =
      some (none, [.reg .registerPlusOffset (.core 0) 0x1001, .reg .advancePC (.core 15) 0x8004], 0, 0) := by
  decide +kernel

-- adc.w r0,r1,r2,lsl #3
theorem test_adcRegT2 :
    outcome (start .armv7 0x20000020 0x8000 [(1, 1), (2, 1)] [(0x8000, [0x41, 0xeb, 0xc2, 0x0])]) =
      some (none, [.reg .immediate (.core 0) 0xa, .reg .advancePC (.core 15) 0x8004], 0, 0) := by
  decide +kernel

-- rsb r0,r1,r2,lsl #1
theorem test_rsbRegT1 :
    outcome (start .armv7 0x20 0x8000 [(1, 1), (2, 4)] [(0x8000, [0xc1, 0xeb, 0x42, 0x0])]) =
      some (none, [.reg .immediate (.core 0) 0x7, .reg .advancePC (.core 15) 0x8004], 0, 0) := by
  decide +kernel

-- cmn.w r0,r1,lsl #1
theorem test_cmnRegT2 :
    outcome (start .armv7 0x20 0x8000 [(0, 0xfffffffe), (1, 1)] [(0x8000, [0x10, 0xeb, 0x41, 0xf])]) =
      some (none, [.reg .immediate .status 0x60000020, .reg .advancePC (.core 15) 0x8004], 0, 0) := by
  decide +kernel

-- add.w r0,pc,#1 (ADR form)
theorem test_addImmT4_unsupportedEncoding :
    outcome (start .armv7 0x20 0x8000 [] [(0x8000, [0xf, 0xf2, 0x1, 0x0])]) =
      some ((some .unsupportedEncoding), [], 0, 0) := by
  decide +kernel

-- eor r0,r0,r0
theorem test_eorRegA1 :
    outcome (start .armv7 0x0 0x8000 [(0, 0x1234)] [(0x8000, [0x0, 0x0, 0x20, 0xe0])]) =
      some (none, [.reg .immediate (.core 0) 0x0, .reg .advancePC (.core 15) 0x8004], 0, 0) := by
  decide +kernel

-- eors r0,r1,#1
theorem test_eorImmA1 :
    outcome (start .armv7 0x20000000 0x8000 [(1, 1)] [(0x8000, [0x1, 0x0, 0x31, 0xe2])]) =
      some (none, [.reg .immediate (.core 0) 0x0, .reg .immediate .status 0x60000000, .reg .advancePC (.core 15) 0x8004], 0,
          0) := by
  decide +kernel

-- mvn r0,#0
theorem test_mvnImmA1 :
    outcome (start .armv7 0x0 0x8000 [] [(0x8000, [0x0, 0x0, 0xe0, 0xe3])]) =
      some (none, [.reg .immediate (.core 0) 0xffffffff, .reg .advancePC (.core 15) 0x8004], 0, 0) := by
  decide +kernel

-- mvns r0,r1,lsl #2
theorem test_mvnRegA1 :
    outcome (start .armv7 0x0 0x8000 [(1, 0x40000000)] [(0x8000, [0x1, 0x1, 0xf0, 0xe1])]) =
      some (none, [.reg .immediate (.core 0) 0xffffffff, .reg .immediate .status 0xa0000000,
          .reg .advancePC (.core 15) 0x8004], 0, 0) := by
  decide +kernel

-- teq r0,#1
theorem test_teqImmA1 :
    outcome (start .armv7 0x0 0x8000 [(0, 1)] [(0x8000, [0x1, 0x0, 0x30, 0xe3])]) =
      some (none, [.reg .immediate .status 0x40000000, .reg .advancePC (.core 15) 0x8004], 0, 0) := by
  decide +kernel

-- teq r0,r1
theorem test_teqRegA1 :
    outcome (start .armv7 0x60000000 0x8000 [(0, 0x80000000), (1, 0)] [(0x8000, [0x1, 0x0, 0x30, 0xe1])]) =
      some (none, [.reg .immediate .status 0xa0000000, .reg .advancePC (.core 15) 0x8004], 0, 0) := by
  decide +kernel

-- ands r0,r1
theorem test_andRegT1 :
    outcome (start .armv7 0x20000020 0x8000 [(0, 0xc), (1, 0xa)] [(0x8000, [0x8, 0x40])]) =
      some (none, [.reg .immediate (.core 0) 0x8, .reg .immediate .status 0x20000020, .reg .advancePC (.core 15) 0x8002], 0,
          0) := by
  decide +kernel

-- orrs r0,r1
theorem test_orrRegT1 :
    outcome (start .armv7 0x80000020 0x8000 [(0, 0), (1, 0)] [(0x8000, [0x8, 0x43])]) =
      some (none, [.reg .immediate (.core 0) 0x0, .reg .immediate .status 0x40000020, .reg .advancePC (.core 15) 0x8002], 0,
          0) := by
  decide +kernel

-- tst r0,r1
theorem test_tstRegT1 :
    outcome (start .armv7 0x20 0x8000 [(0, 0x80000000), (1, 0x80000000)] [(0x8000, [0x8, 0x42])]) =
      some (none, [.reg .immediate .status 0x80000020, .reg .advancePC (.core 15) 0x8002], 0, 0) := by
  decide +kernel

-- ands r0,r1,#0x80000000
theorem test_andImmT1 :
    outcome (start .armv7 0x20 0x8000 [(1, 0xffffffff)] [(0x8000, [0x11, 0xf0, 0x0, 0x40])]) =
      some (none, [.reg .immediate (.core 0) 0x80000000, .reg .immediate .status 0xa0000020,
          .reg .advancePC (.core 15) 0x8004], 0, 0) := by
  decide +kernel

-- tst r0,#0x80000000
theorem test_tstImmT1 :
    outcome (start .armv7 0x20 0x8000 [(0, 0)] [(0x8000, [0x10, 0xf0, 0x0, 0x4f])]) =
      some (none, [.reg .immediate .status 0x60000020, .reg .advancePC (.core 15) 0x8004], 0, 0) := by
  decide +kernel

-- lsrs r0,r1,#32
theorem test_lsrImmA1 :
    outcome (start .armv7 0x0 0x8000 [(1, 0x80000000)] [(0x8000, [0x21, 0x0, 0xb0, 0xe1])]) =
      some (none, [.reg .immediate (.core 0) 0x0, .reg .immediate .status 0x60000000, .reg .advancePC (.core 15) 0x8004], 0,
          0) := by
  decide +kernel

-- rrxs r0,r1
theorem test_rrxA1 :
    outcome (start .armv7 0x0 0x8000 [(1, 3)] [(0x8000, [0x61, 0x0, 0xb0, 0xe1])]) =
      some (none, [.reg .immediate (.core 0) 0x1, .reg .immediate .status 0x20000000, .reg .advancePC (.core 15) 0x8004], 0,
          0) := by
  decide +kernel

-- lsls r0,r1,r2
theorem test_lslRegA1 :
    outcome (start .armv7 0x0 0x8000 [(1, 1), (2, 0x20)] [(0x8000, [0x11, 0x2, 0xb0, 0xe1])]) =
      some (none, [.reg .immediate (.core 0) 0x0, .reg .immediate .status 0x60000000, .reg .advancePC (.core 15) 0x8004], 0,
          0) := by
  decide +kernel

-- lsrs r0,r1,r2
theorem test_lsrRegA1 :
    outcome (start .armv7 0x0 0x8000 [(1, 0x80000000), (2, 0x20)] [(0x8000, [0x31, 0x2, 0xb0, 0xe1])]) =
      some (none, [.reg .immediate (.core 0) 0x0, .reg .immediate .status 0x60000000, .reg .advancePC (.core 15) 0x8004], 0,
          0) := by
  decide +kernel

-- lsl r0,pc,r2
theorem test_lslRegA1_unpredictableOperands :
    outcome (start .armv7 0x0 0x8000 [(2, 1)] [(0x8000, [0x1f, 0x2, 0xa0, 0xe1])]) =
      some ((some .unpredictableOperands), [], 0, 0) := by
  decide +kernel

-- movs r0,r1 (LSL #0) inside IT
theorem test_lslImmT1_unpredictableOperands :
    outcome (inSession 0xe8 (start .armv7 0x20 0x8000 [(1, 0)] [(0x8000, [0x8, 0x0])])) =
      some ((some .unpredictableOperands), [], 0xe8, 1) := by
  decide +kernel

-- asrs r0,r1,#32
theorem test_asrImmT1 :
    outcome (start .armv7 0x20000020 0x8000 [(1, 0x7fffffff)] [(0x8000, [0x8, 0x10])]) =
      some (none, [.reg .immediate (.core 0) 0x0, .reg .immediate .status 0x40000020, .reg .advancePC (.core 15) 0x8002], 0,
          0) := by
  decide +kernel

-- rors r0,r1
theorem test_rorRegT1 :
    outcome (start .armv7 0x20 0x8000 [(0, 0xf), (1, 4)] [(0x8000, [0xc8, 0x41])]) =
      some (none, [.reg .immediate (.core 0) 0xf0000000, .reg .immediate .status 0xa0000020,
          .reg .advancePC (.core 15) 0x8002], 0, 0) := by
  decide +kernel

-- lsl.w r0,r1,#3
theorem test_lslImmT2 :
    outcome (start .armv7 0xf0000020 0x8000 [(1, 1)] [(0x8000, [0x4f, 0xea, 0xc1, 0x0])]) =
      some (none, [.reg .immediate (.core 0) 0x8, .reg .advancePC (.core 15) 0x8004], 0, 0) := by
  decide +kernel

-- rrx r0,r1
theorem test_rrxT1 :
    outcome (start .armv7 0x20000020 0x8000 [(1, 1)] [(0x8000, [0x4f, 0xea, 0x31, 0x0])]) =
      some (none, [.reg .immediate (.core 0) 0x80000000, .reg .advancePC (.core 15) 0x8004], 0, 0) := by
  decide +kernel

-- rors r0,r1,#8
theorem test_rorImmT1 :
    outcome (start .armv7 0x20 0x8000 [(1, 0x80)] [(0x8000, [0x5f, 0xea, 0x31, 0x20])]) =
      some (none, [.reg .immediate (.core 0) 0x80000000, .reg .immediate .status 0xa0000020,
          .reg .advancePC (.core 15) 0x8004], 0, 0) := by
  decide +kernel

-- asr.w r0,r1,r2
theorem test_asrRegT2 :
    outcome (start .armv7 0x20 0x8000 [(1, 0x80000000), (2, 4)] [(0x8000, [0x41, 0xfa, 0x2, 0xf0])]) =
      some (none, [.reg .immediate (.core 0) 0xf8000000, .reg .advancePC (.core 15) 0x8004], 0, 0) := by
  decide +kernel

-- blx #0x102
theorem test_blxImmA2 :
    outcome (start .armv7 0x0 0x8000 [(14, 0)] [(0x8000, [0x40, 0x0, 0x0, 0xfb])]) =
      some (none, [.reg .branch (.core 14) 0x8004, .reg .modeChange .status 0x20, .reg .branch (.core 15) 0x810a], 0, 0) := by
  decide +kernel

-- beq #4
theorem test_bT1 :
    outcome (start .armv7 0x40000020 0x8000 [] [(0x8000, [0x2, 0xd0])]) =
      some (none, [.reg .branch (.core 15) 0x8008], 0, 0) := by
  decide +kernel

-- b #-4 (0xe7fc)
theorem test_bT2 :
    outcome (start .armv7 0x20 0x8000 [] [(0x8000, [0xfc, 0xe7])]) =
      some (none, [.reg .branch (.core 15) 0x7ffc], 0, 0) := by
  decide +kernel

-- b #4 inside IT, not last
theorem test_bT2_unpredictableOperands :
    outcome (inSession 0x4 (start .armv7 0x40000020 0x8000 [] [(0x8000, [0x0, 0xe0])])) =
      some ((some .unpredictableOperands), [], 0x4, 2) := by
  decide +kernel

-- beq.w #0x1000
theorem test_bT3 :
    outcome (start .armv7 0x40000020 0x8000 [] [(0x8000, [0x1, 0xf0, 0x0, 0x80])]) =
      some (none, [.reg .branch (.core 15) 0x9004], 0, 0) := by
  decide +kernel

-- bl #0x100
theorem test_blImmT1 :
    outcome (start .armv7 0x20 0x8000 [(14, 0)] [(0x8000, [0x0, 0xf0, 0x80, 0xf8])]) =
      some (none, [.reg .branch (.core 14) 0x8005, .reg .branch (.core 15) 0x8104], 0, 0) := by
  decide +kernel

-- blx #0x100
theorem test_blxImmT2 :
    outcome (start .armv7 0x20 0x8002 [(14, 0)] [(0x8002, [0x0, 0xf0, 0x80, 0xe8])]) =
      some (none, [.reg .branch (.core 14) 0x8007, .reg .modeChange .status 0x0, .reg .branch (.core 15) 0x8104], 0, 0) := by
  decide +kernel

-- blx (H=1) 0xf000 0xc081
theorem test_blxImmT2_unpredictableOperands :
    outcome (start .armv7 0x20 0x8000 [] [(0x8000, [0x0, 0xf0, 0x81, 0xc0])]) =
      some ((some .unpredictableOperands), [], 0, 0) := by
  decide +kernel

-- blx r3
theorem test_blxRegT1 :
    outcome (start .armv7 0x20 0x8000 [(3, 0x9000), (14, 0)] [(0x8000, [0x98, 0x47])]) =
      some (none, [.reg .branch (.core 14) 0x8003, .reg .modeChange .status 0x0, .reg .branch (.core 15) 0x9000], 0, 0) := by
  decide +kernel

-- cbz r0,#8
theorem test_cbzT1 :
    outcome (start .armv7 0x20 0x8000 [(0, 0)] [(0x8000, [0x20, 0xb1])]) =
      some (none, [.reg .branch (.core 15) 0x800c], 0, 0) := by
  decide +kernel

-- cbnz r1,#64
theorem test_cbnzT1 :
    outcome (start .armv7 0x20 0x8000 [(1, 1)] [(0x8000, [0x1, 0xbb])]) =
      some (none, [.reg .branch (.core 15) 0x8044], 0, 0) := by
  decide +kernel

-- tbb [r0,r1]
theorem test_tbbT1 :
    outcome (start .armv7 0x20 0x8000 [(0, 0x1000), (1, 2)] [(0x1002, [0x5]), (0x8000, [0xd0, 0xe8, 0x1, 0xf0])]) =
      some (none, [.reg .tableBranch (.core 15) 0x800e], 0, 0) := by
  decide +kernel

-- tbh [r0,r1,lsl #1]
theorem test_tbhT1 :
    outcome (start .armv7 0x20 0x8000 [(0, 0x1000), (1, 2)] [(0x1004, [0x0, 0x1]), (0x8000, [0xd0, 0xe8, 0x11, 0xf0])]) =
      some (none, [.reg .tableBranch (.core 15) 0x8204], 0, 0) := by
  decide +kernel

-- ldmda r0!,{r1,r2}
theorem test_ldmdaA1 :
    outcome (start .armv7 0x0 0x8000 [(0, 0x1018)] [(0x1010, [0x11, 0x0, 0x0, 0x0, 0x22, 0x0, 0x0, 0x0, 0x33, 0x0, 0x0, 0x0,
        0x44, 0x0, 0x0, 0x0, 0x55, 0x0, 0x0, 0x0]), (0x8000, [0x6, 0x0, 0x30, 0xe8])]) =
      some (none, [.reg .registerLoad (.core 1) 0x22, .reg .registerLoad (.core 2) 0x33,
          .reg .adjustBaseRegister (.core 0) 0x1010, .reg .advancePC (.core 15) 0x8004], 0, 0) := by
  decide +kernel

-- ldmib r0!,{r1,r2}
theorem test_ldmibA1 :
    outcome (start .armv7 0x0 0x8000 [(0, 0x1010)] [(0x1010, [0x11, 0x0, 0x0, 0x0, 0x22, 0x0, 0x0, 0x0, 0x33, 0x0, 0x0, 0x0,
        0x44, 0x0, 0x0, 0x0, 0x55, 0x0, 0x0, 0x0]), (0x8000, [0x6, 0x0, 0xb0, 0xe9])]) =
      some (none, [.reg .registerLoad (.core 1) 0x22, .reg .registerLoad (.core 2) 0x33,
          .reg .adjustBaseRegister (.core 0) 0x1018, .reg .advancePC (.core 15) 0x8004], 0, 0) := by
  decide +kernel

-- ldm r0!,{r1,r2}
theorem test_ldmT1 :
    outcome (start .armv7 0x20 0x8000 [(0, 0x1014)] [(0x1010, [0x11, 0x0, 0x0, 0x0, 0x22, 0x0, 0x0, 0x0, 0x33, 0x0, 0x0, 0x0,
        0x44, 0x0, 0x0, 0x0, 0x55, 0x0, 0x0, 0x0]), (0x8000, [0x6, 0xc8])]) =
      some (none, [.reg .registerLoad (.core 1) 0x22, .reg .registerLoad (.core 2) 0x33,
          .reg .adjustBaseRegister (.core 0) 0x101c, .reg .advancePC (.core 15) 0x8002], 0, 0) := by
  decide +kernel

-- stm r0!,{r1,r2}
theorem test_stmT1 :
    outcome (start .armv7 0x20 0x8000 [(0, 0x1014), (1, 0xaa), (2, 0xbb)] [(0x8000, [0x6, 0xc0])]) =
      some (none, [.mem .registerStore 0x1014 4 0xaa, .mem .registerStore 0x1018 4 0xbb,
          .reg .adjustBaseRegister (.core 0) 0x101c, .reg .advancePC (.core 15) 0x8002], 0, 0) := by
  decide +kernel

-- ldmdb r0!,{r1,r2}
theorem test_ldmdbT1 :
    outcome (start .armv7 0x20 0x8000 [(0, 0x101c)] [(0x1010, [0x11, 0x0, 0x0, 0x0, 0x22, 0x0, 0x0, 0x0, 0x33, 0x0, 0x0, 0x0,
        0x44, 0x0, 0x0, 0x0, 0x55, 0x0, 0x0, 0x0]), (0x8000, [0x30, 0xe9, 0x6, 0x0])]) =
      some (none, [.reg .registerLoad (.core 1) 0x22, .reg .registerLoad (.core 2) 0x33,
          .reg .adjustBaseRegister (.core 0) 0x1014, .reg .advancePC (.core 15) 0x8004], 0, 0) := by
  decide +kernel

-- stmdb r0!,{r1,r2}
theorem test_stmdbT1 :
    outcome (start .armv7 0x20 0x8000 [(0, 0x101c), (1, 0xaa), (2, 0xbb)] [(0x8000, [0x20, 0xe9, 0x6, 0x0])]) =
      some (none, [.mem .registerStore 0x1014 4 0xaa, .mem .registerStore 0x1018 4 0xbb,
          .reg .adjustBaseRegister (.core 0) 0x1014, .reg .advancePC (.core 15) 0x8004], 0, 0) := by
  decide +kernel

-- ldr pc,[r1,#9] (unaligned)
theorem test_ldrImmA1_unpredictableOperands :
    outcome (start .armv7 0x0 0x8000 [(1, 0x1010)] [(0x1010, [0x44, 0x33, 0x22, 0x11, 0xdd, 0xcc, 0xbb, 0xaa, 0x1, 0x90, 0x0,
        0x0]), (0x8000, [0x9, 0xf0, 0x91, 0xe5])]) =
      some ((some .unpredictableOperands), [], 0, 0) := by
  decide +kernel

-- ldrt r0,[r1],#4
theorem test_ldrImmA1_unsupportedEncoding :
    outcome (start .armv7 0x0 0x8000 [(1, 0x1010)] [(0x1010, [0x44, 0x33, 0x22, 0x11, 0xdd, 0xcc, 0xbb, 0xaa, 0x1, 0x90, 0x0,
        0x0]), (0x8000, [0x4, 0x0, 0xb1, 0xe4])]) =
      some ((some .unsupportedEncoding), [], 0, 0) := by
  decide +kernel

-- ldrb r0,[r1,r2]
theorem test_ldrbRegA1 :
    outcome (start .armv7 0x0 0x8000 [(1, 0x1014), (2, 3)] [(0x1010, [0x44, 0x33, 0x22, 0x11, 0xdd, 0xcc, 0xbb, 0xaa, 0x1,
        0x90, 0x0, 0x0]), (0x8000, [0x2, 0x0, 0xd1, 0xe7])]) =
      some (none, [.reg .registerLoad (.core 0) 0xaa, .reg .advancePC (.core 15) 0x8004], 0, 0) := by
  decide +kernel

-- ldrb r0,[pc,#4]
theorem test_ldrbLitA1 :
    outcome (start .armv7 0x0 0x8000 [] [(0x8000, [0x4, 0x0, 0xdf, 0xe5]), (0x800c, [0x7f])]) =
      some (none, [.reg .registerLoad (.core 0) 0x7f, .reg .advancePC (.core 15) 0x8004], 0, 0) := by
  decide +kernel

-- strb r0,[r1],#1
theorem test_strbImmA1 :
    outcome (start .armv7 0x0 0x8000 [(0, 0x1234), (1, 0x1010)] [(0x8000, [0x1, 0x0, 0xc1, 0xe4])]) =
      some (none, [.mem .registerStore 0x1010 1 0x34, .reg .adjustBaseRegister (.core 1) 0x1011,
          .reg .advancePC (.core 15) 0x8004], 0, 0) := by
  decide +kernel

-- ldr r0,[r1,#4]
theorem test_ldrImmT1 :
    outcome (start .armv7 0x20 0x8000 [(1, 0x1010)] [(0x1010, [0x44, 0x33, 0x22, 0x11, 0xdd, 0xcc, 0xbb, 0xaa, 0x1, 0x90,
        0x0, 0x0]), (0x8000, [0x48, 0x68])]) =
      some (none, [.reg .registerLoad (.core 0) 0xaabbccdd, .reg .advancePC (.core 15) 0x8002], 0, 0) := by
  decide +kernel

-- ldr r0,[pc,#8]
theorem test_ldrLitT1 :
    outcome (start .armv7 0x20 0x8002 [] [(0x8002, [0x2, 0x48]), (0x800c, [0xd, 0xf0, 0xfe, 0xca])]) =
      some (none, [.reg .registerLoad (.core 0) 0xcafef00d, .reg .advancePC (.core 15) 0x8004], 0, 0) := by
  decide +kernel

-- ldr r0,[r1,r2]
theorem test_ldrRegT1 :
    outcome (start .armv7 0x20 0x8000 [(1, 0x1010), (2, 4)] [(0x1010, [0x44, 0x33, 0x22, 0x11, 0xdd, 0xcc, 0xbb, 0xaa, 0x1,
        0x90, 0x0, 0x0]), (0x8000, [0x88, 0x58])]) =
      some (none, [.reg .registerLoad (.core 0) 0xaabbccdd, .reg .advancePC (.core 15) 0x8002], 0, 0) := by
  decide +kernel

-- strb r0,[r1,r2]
theorem test_strbRegT1 :
    outcome (start .armv7 0x20 0x8000 [(0, 0x1ff), (1, 0x1010), (2, 2)] [(0x8000, [0x88, 0x54])]) =
      some (none, [.mem .registerStore 0x1012 1 0xff, .reg .advancePC (.core 15) 0x8002], 0, 0) := by
  decide +kernel

-- ldr.w r0,[pc,#-8]
theorem test_ldrLitT2 :
    outcome (start .armv7 0x20 0x8002 [] [(0x7ffc, [0x4, 0x3, 0x2, 0x1]), (0x8002, [0x5f, 0xf8, 0x8, 0x0])]) =
      some (none, [.reg .registerLoad (.core 0) 0x1020304, .reg .advancePC (.core 15) 0x8006], 0, 0) := by
  decide +kernel

-- ldr.w pc,[r1,#8] inside IT, not last
theorem test_ldrImmT3_unpredictableOperands :
    outcome (inSession 0x4 (start .armv7 0x40000020 0x8000 [(1, 0x1010)] [(0x1010, [0x44, 0x33, 0x22, 0x11, 0xdd, 0xcc, 0xbb,
        0xaa, 0x1, 0x90, 0x0, 0x0]), (0x8000, [0xd1, 0xf8, 0x8, 0xf0])])) =
      some ((some .unpredictableOperands), [], 0x4, 2) := by
  decide +kernel

-- ldrb.w r0,[r1,#0xfff]
theorem test_ldrbImmT2 :
    outcome (start .armv7 0x20 0x8000 [(1, 0x12)] [(0x1011, [0x80]), (0x8000, [0x91, 0xf8, 0xff, 0xf])]) =
      some (none, [.reg .registerLoad (.core 0) 0x80, .reg .advancePC (.core 15) 0x8004], 0, 0) := by
  decide +kernel

-- str r0,[r1,#-4]!
theorem test_strImmT4 :
    outcome (start .armv7 0x20 0x8000 [(0, 0x55aa55aa), (1, 0x1014)] [(0x8000, [0x41, 0xf8, 0x4, 0xd])]) =
      some (none, [.mem .registerStore 0x1010 4 0x55aa55aa, .reg .adjustBaseRegister (.core 1) 0x1010,
          .reg .advancePC (.core 15) 0x8004], 0, 0) := by
  decide +kernel

-- str.w r0,[r1,r2,lsl #3]
theorem test_strRegT2 :
    outcome (start .armv7 0x20 0x8000 [(0, 9), (1, 0x1000), (2, 2)] [(0x8000, [0x41, 0xf8, 0x32, 0x0])]) =
      some (none, [.mem .registerStore 0x1010 4 0x9, .reg .advancePC (.core 15) 0x8004], 0, 0) := by
  decide +kernel

-- svc #0x123456
theorem test_svcA1 :
    outcome (start .armv7 0x0 0x8000 [(14, 0)] [(0x8000, [0x56, 0x34, 0x12, 0xef])]) =
      some (none, [.reg (.supervisorCall 0x123456) (.core 14) 0x8004, .reg .advancePC (.core 15) 0x8004], 0, 0) := by
  decide +kernel

-- svc #1
theorem test_svcT1 :
    outcome (start .armv7 0x20 0x8000 [(14, 0)] [(0x8000, [0x1, 0xdf])]) =
      some (none, [.reg (.supervisorCall 0x1) (.core 14) 0x8003, .reg .advancePC (.core 15) 0x8002], 0, 0) := by
  decide +kernel

-- ite ge
theorem test_itT1 :
    outcome (start .armv7 0x20 0x8000 [] [(0x8000, [0xac, 0xbf])]) =
      some (none, [.reg .advancePC (.core 15) 0x8002], 0xac, 2) := by
  decide +kernel

-- nop (0xbf00: IT row, mask 0000)
theorem test_itT1_unsupportedEncoding :
    outcome (start .armv7 0x20 0x8000 [] [(0x8000, [0x0, 0xbf])]) =
      some ((some .unsupportedEncoding), [], 0, 0) := by
  decide +kernel

-- ldm r0!,{r1,r2} (second word not readable)
theorem test_ldmA1_accessFailure :
    outcome (start .armv7 0x0 0x8000 [(0, 0x1014)] [(0x1014, [0x22, 0x0, 0x0, 0x0]), (0x8000, [0x6, 0x0, 0xb0, 0xe8])]) =
      some ((some .accessFailure), [.reg .registerLoad (.core 1) 0x22], 0, 0) := by
  decide +kernel

-- fetch from pc=0x8002 in ARM state (misaligned)
theorem test_fetch_fetchFailure_283 :
    outcome (start .armv7 0x0 0x8002 [] [(0x8002, [0x0, 0x0, 0x0, 0xea])]) =
      some ((some .fetchFailure), [], 0, 0) := by
  decide +kernel

-- 32-bit Thumb, second halfword not readable
theorem test_fetch_fetchFailure_284 :
    outcome (start .armv7 0x20 0x8000 [] [(0x8000, [0x0, 0xf0])]) =
      some ((some .fetchFailure), [], 0, 0) := by
  decide +kernel

/-! ## Witnesses: for each statement with hypotheses, a state and operands that meet each clause's hypotheses together -/

/-- Zero bytes mapped from an address on. -/
def zeros (a : Nat) : Nat → Memory
  | 0 => []
  | n + 1 => (a, 0) :: zeros (a + 1) n

/-- A served state in stage Execute of an instruction at 0x8000, with SP = 0x1000, the other core registers 0x1040 and 160
zero bytes mapped from 0x1000 on. -/
def executing (arch : ArchVariant) (set : InstrSet) (cpsr : Word) (it : ITSession) : State :=
  let s := { State.reset with
    arch := arch
    mode := modeOf set
    it := it
    inst := { valid := false, raw := 0, width := .w32, mode := set, addr := 0x8000, cpsr := cpsr }
    cpsrOut := cpsr
    status := cpsr
    core := Vector.replicate 16 0x1040
    mem := zeros 0x1000 160 }
  (s.setCore 13 0x1000).setCore 15 0x8000

/-- An ARM instruction of an ARMv7 machine, with C set. -/
def armed : State := executing .armv7 .arm 0x20000010 { state := 0, remaining := 0 }
/-- An ARM instruction of an ARMv6 machine, with C clear. -/
def armed6 : State := executing .armv6 .arm 0x00000010 { state := 0, remaining := 0 }
/-- A Thumb instruction outside an IT block. -/
def thumbed : State := executing .armv7 .thumb 0x20000030 { state := 0, remaining := 0 }
/-- The first of two instructions of an IT block. -/
def inIT : State := executing .armv7 .thumb 0x20000030 { state := 0x04, remaining := 2 }
/-- The last instruction of an IT block. -/
def lastIT : State := executing .armv7 .thumb 0x20000030 { state := 0x08, remaining := 1 }

theorem witness_states_served : armed.served ∧ armed6.served ∧ thumbed.served ∧ inIT.served ∧ lastIT.served := by
  and_intros <;> rfl

theorem witness_states_IT : thumbed.inITBlock = false ∧ inIT.inITBlock = true ∧ inIT.lastInITBlock = false ∧
    lastIT.inITBlock = true ∧ lastIT.lastInITBlock = true := by
  and_intros <;> rfl

theorem read_zeros : ∀ (n a k : Nat), k < n → Memory.read? (zeros a n) (a + k) = some 0
  | n + 1, a, 0, _ => by simp [zeros, Memory.read?]
  | n + 1, a, k + 1, h => by
    have := read_zeros n (a + 1) k (by omega)
    simp only [zeros, Memory.read?]
    rw [if_neg (by omega), ← this]
    congr 1
    omega

/-- The mapped zeros read as 0, at every size. -/
theorem readLE_zeros {s : State} (hm : s.mem = zeros 0x1000 160) : ∀ (n : Nat) (a : Word),
    0x1000 ≤ a.toNat → a.toNat + n ≤ 0x10a0 → Memory.readLE s.mem a n = some 0
  | 0, _, _, _ => rfl
  | n + 1, a, h, h' => by
    have ha : (a + 1).toNat = a.toNat + 1 := by bv_omega
    have h1 := readLE_zeros hm n (a + 1) (by omega) (by omega)
    have h0 := read_zeros 160 0x1000 (a.toNat - 0x1000) (by omega)
    rw [show 0x1000 + (a.toNat - 0x1000) = a.toNat by omega, ← hm] at h0
    simp only [Memory.readLE, h0, h1]
    rfl

/-- Lists of words of the mapped zeros. -/
theorem words_zeros {s : State} (hm : s.mem = zeros 0x1000 160) {a : Word} {n : Nat} (h : 0x1000 ≤ a.toNat)
    (h' : a.toNat + 4 * n ≤ 0x10a0) : WordsMapped s a n fun _ => 0 := by
  intro k hk
  have : (BitVec.ofNat 32 (4 * k)).toNat = 4 * k := by simp; omega
  have ha : (a + BitVec.ofNat 32 (4 * k)).toNat = a.toNat + 4 * k := by bv_omega
  exact readLE_zeros hm 4 _ (by omega) (by omega)

theorem witness_ArmArithmeticImmediate : armed.served := rfl

theorem witness_ArmArithmeticRegister : armed.served := rfl

theorem witness_ArmLogical : armed.served := rfl

theorem witness_ArmCompares : armed.served := rfl

theorem witness_Thumb16Arithmetic :
    thumbed.served ∧ thumbed.inITBlock = false ∧ inIT.served ∧ inIT.inITBlock = true := by
  and_intros <;> rfl

theorem witness_Thumb16Logical :
    thumbed.served ∧ thumbed.inITBlock = false ∧ inIT.served ∧ inIT.inITBlock = true := by
  and_intros <;> rfl

theorem witness_Thumb16Compares :
    thumbed.served ∧ inIT.served ∧
    ¬ ((splitReg 0 7).toNat < 8 ∧ (8 : BitVec 4).toNat < 8) ∧ splitReg 0 7 ≠ 15 ∧ (8 : BitVec 4) ≠ 15 ∧
    ¬ ((splitReg 1 6).toNat < 8 ∧ (7 : BitVec 4).toNat < 8) ∧ splitReg 1 6 ≠ 15 ∧ (7 : BitVec 4) ≠ 15 := by
  and_intros <;> first | rfl | decide

theorem witness_ThumbSpAndHighRegisterAdds :
    thumbed.served ∧ lastIT.served ∧ inIT.served ∧
    (splitReg 1 7 = 15 → (14 : BitVec 4) ≠ 15 ∧ (thumbed.inITBlock = true → thumbed.lastInITBlock = true)) ∧
    (splitReg 1 7 = 15 → (14 : BitVec 4) ≠ 15 ∧ (lastIT.inITBlock = true → lastIT.lastInITBlock = true)) ∧
    (splitReg 1 6 = 15 → (15 : BitVec 4) ≠ 15 ∧ (inIT.inITBlock = true → inIT.lastInITBlock = true)) := by
  and_intros <;> first | rfl | decide

/-- An immediate of each clause; ADD and SUB with the base SP and with another base; register 14 beside 13 and 15. -/
theorem witness_Thumb32Immediate :
    thumbed.served ∧
    thumbExpandImmC ((0 : BitVec 1) ++ (0 : BitVec 3) ++ (0 : BitVec 8)) thumbed.carry = some (0, true) ∧
    thumbExpandImmC ((1 : BitVec 1) ++ (7 : BitVec 3) ++ (0xff : BitVec 8)) thumbed.carry = some (0x1fe, false) ∧
    badReg 14 = false ∧ badReg 0 = false ∧
    (if (13 : BitVec 4) = 13 then (13 : BitVec 4) ≠ 15 else (13 : BitVec 4) ≠ 13 ∧ (13 : BitVec 4) ≠ 15 ∧ (13 : BitVec 4) ≠ 15) ∧
    (if (14 : BitVec 4) = 13 then (14 : BitVec 4) ≠ 15 else (14 : BitVec 4) ≠ 13 ∧ (14 : BitVec 4) ≠ 15 ∧ (14 : BitVec 4) ≠ 15) ∧
    (13 : BitVec 4) ≠ 15 ∧ (if (13 : BitVec 4) = 13 then (13 : BitVec 4) ≠ 15 else badReg 13 = false) ∧
    (14 : BitVec 4) ≠ 15 ∧ (if (14 : BitVec 4) = 13 then (14 : BitVec 4) ≠ 15 else badReg 14 = false) := by
  and_intros <;> first | rfl | decide

/-- SP plus a register shifted left by 3 into SP, SP plus a register shifted otherwise elsewhere, and another base. -/
theorem witness_Thumb32Register :
    thumbed.served ∧ badReg 14 = false ∧ badReg 12 = false ∧ (13 : BitVec 4) ≠ 15 ∧ (14 : BitVec 4) ≠ 15 ∧
    (if (13 : BitVec 4) = 13 then (13 : BitVec 4) = 13 →
        (decodeImmShift 0 ((0 : BitVec 3) ++ (3 : BitVec 2))).1 = .lsl ∧ (decodeImmShift 0 ((0 : BitVec 3) ++ (3 : BitVec 2))).2 ≤ 3
      else (13 : BitVec 4) ≠ 13 ∧ (13 : BitVec 4) ≠ 15) ∧
    (if (13 : BitVec 4) = 13 then (14 : BitVec 4) = 13 →
        (decodeImmShift 3 ((7 : BitVec 3) ++ (3 : BitVec 2))).1 = .lsl ∧ (decodeImmShift 3 ((7 : BitVec 3) ++ (3 : BitVec 2))).2 ≤ 3
      else (14 : BitVec 4) ≠ 13 ∧ (13 : BitVec 4) ≠ 15) ∧
    (if (14 : BitVec 4) = 13 then (14 : BitVec 4) = 13 →
        (decodeImmShift 3 ((0 : BitVec 3) ++ (0 : BitVec 2))).1 = .lsl ∧ (decodeImmShift 3 ((0 : BitVec 3) ++ (0 : BitVec 2))).2 ≤ 3
      else (14 : BitVec 4) ≠ 13 ∧ (14 : BitVec 4) ≠ 15) := by
  and_intros <;> first | rfl | decide

theorem witness_Thumb32Compares :
    thumbed.served ∧
    thumbExpandImmC ((0 : BitVec 1) ++ (1 : BitVec 3) ++ (1 : BitVec 8)) thumbed.carry = some (0x00010001, true) ∧
    (13 : BitVec 4) ≠ 15 ∧ badReg 14 = false ∧ badReg 12 = false := by
  and_intros <;> first | rfl | decide

theorem witness_ArmShifts :
    armed.served ∧ (14 : BitVec 4) ≠ 15 ∧ (13 : BitVec 4) ≠ 15 ∧ (0 : BitVec 4) ≠ 15 := by
  and_intros <;> first | rfl | decide

theorem witness_Thumb16Shifts :
    thumbed.served ∧ inIT.served ∧ ((0 : BitVec 5) = 0 → thumbed.inITBlock = false) ∧
    ((1 : BitVec 5) = 0 → inIT.inITBlock = false) := by
  and_intros <;> first | rfl | decide

theorem witness_Thumb32Shifts : thumbed.served ∧ badReg 14 = false ∧ badReg 0 = false ∧ badReg 12 = false := by
  and_intros <;> rfl

/-- Outside an IT block, and last in one; the condition fields at the ends of their ranges. -/
theorem witness_Branches :
    armed.served ∧ thumbed.served ∧ lastIT.served ∧ thumbed.inITBlock = false ∧ (0 : BitVec 4) ≠ 14 ∧ (15 : BitVec 4) ≠ 14 ∧
    (0 : BitVec 4).toNat < 14 ∧ (13 : BitVec 4).toNat < 14 ∧
    (thumbed.inITBlock = true → thumbed.lastInITBlock = true) ∧ (lastIT.inITBlock = true → lastIT.lastInITBlock = true) := by
  and_intros <;> first | rfl | decide

theorem witness_BranchesWithLink :
    armed.served ∧ thumbed.served ∧ lastIT.served ∧
    (thumbed.inITBlock = true → thumbed.lastInITBlock = true) ∧ (lastIT.inITBlock = true → lastIT.lastInITBlock = true) := by
  and_intros <;> first | rfl | decide

theorem witness_BranchesToRegister :
    armed.served ∧ thumbed.served ∧ lastIT.served ∧ (14 : BitVec 4) ≠ 15 ∧
    (thumbed.inITBlock = true → thumbed.lastInITBlock = true) ∧ (lastIT.inITBlock = true → lastIT.lastInITBlock = true) := by
  and_intros <;> first | rfl | decide

/-- A compared register that is zero and one that is not; a table in mapped memory, at SP and above a low register. -/
theorem witness_CompareAndTableBranches :
    thumbed.served ∧ thumbed.inITBlock = false ∧ thumbed.operand (lowReg 7) ≠ 0 ∧
    (thumbed.setCore 7 0).served ∧ (thumbed.setCore 7 0).inITBlock = false ∧ (thumbed.setCore 7 0).operand (lowReg 7) = 0 ∧
    (1 : BitVec 4) ≠ 13 ∧ badReg 0 = false ∧
    Memory.readLE (thumbed.setCore 0 0).mem ((thumbed.setCore 0 0).operand 1 + (thumbed.setCore 0 0).operand 0) 1 = some 0 ∧
    Memory.readLE (thumbed.setCore 0 0).mem ((thumbed.setCore 0 0).operand 1 + (thumbed.setCore 0 0).operand 0 <<< 1) 2 =
      some 0 ∧
    lastIT.served ∧ (lastIT.inITBlock = true → lastIT.lastInITBlock = true) := by
  refine ⟨rfl, rfl, by decide, rfl, rfl, rfl, by decide, rfl, ?_, ?_, rfl, by decide⟩
  · exact readLE_zeros rfl 1 _ (by decide) (by decide)
  · exact readLE_zeros rfl 2 _ (by decide) (by decide)

/-- One register, all of them, and the least lists of each encoding. -/
theorem witness_Pushes :
    armed.served ∧ thumbed.served ∧ bitCount (1 : BitVec 16) ≠ 0 ∧ bitCount (0xffff : BitVec 16) ≠ 0 ∧ (15 : BitVec 4) ≠ 13 ∧
    bitCount (listM8 true 0) ≠ 0 ∧ bitCount (listM8 false 1) ≠ 0 ∧ 2 ≤ bitCount (listM13 true 1) ∧
    2 ≤ bitCount (listM13 false 0x1fff) ∧ (14 : BitVec 4) ≠ 13 ∧ (14 : BitVec 4) ≠ 15 := by
  and_intros <;> first | rfl | decide

theorem witness_Pops :
    (armed.served ∧ bitCount (0xdfff : BitVec 16) ≠ 0 ∧ ((0xdfff : BitVec 16).getLsbD 13 = true → armed.arch.version < 7) ∧
      WordsMapped armed (armed.getCore 13) (bitCount (0xdfff : BitVec 16)) fun _ => 0) ∧
    (armed6.served ∧ bitCount (0xffff : BitVec 16) ≠ 0 ∧ ((0xffff : BitVec 16).getLsbD 13 = true → armed6.arch.version < 7) ∧
      WordsMapped armed6 (armed6.getCore 13) (bitCount (0xffff : BitVec 16)) fun _ => 0) ∧
    ((15 : BitVec 4) ≠ 13 ∧ WordsMapped armed (armed.getCore 13) 1 fun _ => 0) ∧
    (thumbed.served ∧ bitCount (listP8 true 0) ≠ 0 ∧ (true = true → thumbed.inITBlock = true → thumbed.lastInITBlock = true) ∧
      WordsMapped thumbed (thumbed.getCore 13) (bitCount (listP8 true 0)) fun _ => 0) ∧
    (lastIT.served ∧ 2 ≤ bitCount (listPM13 true false 0x1fff) ∧ (true && false) = false ∧
      (true = true → lastIT.inITBlock = true → lastIT.lastInITBlock = true) ∧
      WordsMapped lastIT (lastIT.getCore 13) (bitCount (listPM13 true false 0x1fff)) fun _ => 0) ∧
    (inIT.served ∧ 2 ≤ bitCount (listPM13 false true 1) ∧ (false && true) = false ∧
      (false = true → inIT.inITBlock = true → inIT.lastInITBlock = true) ∧
      WordsMapped inIT (inIT.getCore 13) (bitCount (listPM13 false true 1)) fun _ => 0) ∧
    ((15 : BitVec 4) = 15 → lastIT.inITBlock = true → lastIT.lastInITBlock = true) ∧
    WordsMapped lastIT (lastIT.getCore 13) 1 fun _ => 0 := by
  and_intros
  all_goals first | rfl | decide | exact words_zeros rfl (by decide) (by decide)

/-- The greatest and the least lists: D16 to D31, D31 alone, S0 to S31, S31 alone. -/
theorem witness_ExtensionPushes :
    armed.served ∧ thumbed.served ∧
    (32 : BitVec 8).getLsbD 0 = false ∧ 0 < (32 : BitVec 8).toNat / 2 ∧ (32 : BitVec 8).toNat / 2 ≤ 16 ∧
    ((1 : BitVec 1) ++ (0 : BitVec 4)).toNat + (32 : BitVec 8).toNat / 2 ≤ 32 ∧
    (2 : BitVec 8).getLsbD 0 = false ∧ 0 < (2 : BitVec 8).toNat / 2 ∧ (2 : BitVec 8).toNat / 2 ≤ 16 ∧
    ((1 : BitVec 1) ++ (15 : BitVec 4)).toNat + (2 : BitVec 8).toNat / 2 ≤ 32 ∧
    0 < (32 : BitVec 8).toNat ∧ ((0 : BitVec 4) ++ (0 : BitVec 1)).toNat + (32 : BitVec 8).toNat ≤ 32 ∧
    0 < (1 : BitVec 8).toNat ∧ ((15 : BitVec 4) ++ (1 : BitVec 1)).toNat + (1 : BitVec 8).toNat ≤ 32 := by
  and_intros <;> first | rfl | decide

theorem witness_ExtensionPops :
    armed.served ∧ thumbed.served ∧
    (32 : BitVec 8).getLsbD 0 = false ∧ 0 < (32 : BitVec 8).toNat / 2 ∧ (32 : BitVec 8).toNat / 2 ≤ 16 ∧
    ((1 : BitVec 1) ++ (0 : BitVec 4)).toNat + (32 : BitVec 8).toNat / 2 ≤ 32 ∧
    (∀ k < (32 : BitVec 8).toNat / 2, Memory.readLE armed.mem (armed.getCore 13 + BitVec.ofNat 32 (8 * k)) 8 = some 0) ∧
    0 < (32 : BitVec 8).toNat ∧ ((0 : BitVec 4) ++ (0 : BitVec 1)).toNat + (32 : BitVec 8).toNat ≤ 32 ∧
    (∀ k < (32 : BitVec 8).toNat, Memory.readLE thumbed.mem (thumbed.getCore 13 + BitVec.ofNat 32 (4 * k)) 4 = some 0) := by
  refine ⟨rfl, rfl, rfl, by decide, by decide, by decide, ?_, by decide, by decide, ?_⟩
  · intro k hk
    have : (BitVec.ofNat 32 (8 * k)).toNat = 8 * k := by simp at *; omega
    have h13 : armed.getCore 13 = 0x1000 := rfl
    exact readLE_zeros rfl 8 _ (by rw [h13]; simp at hk; bv_omega) (by rw [h13]; simp at hk; bv_omega)
  · intro k hk
    have : (BitVec.ofNat 32 (4 * k)).toNat = 4 * k := by simp at *; omega
    have h13 : thumbed.getCore 13 = 0x1000 := rfl
    exact readLE_zeros rfl 4 _ (by rw [h13]; simp at hk; bv_omega) (by rw [h13]; simp at hk; bv_omega)

/-- All sixteen registers from a base that is not in the list written back, at each of the four addresses, and on ARMv6 a base
in the list written back. -/
theorem witness_LoadMultiples :
    armed.served ∧ (0 : BitVec 4) ≠ 15 ∧ bitCount (0xfffe : BitVec 16) ≠ 0 ∧
    (true = true → (0xfffe : BitVec 16).getLsbD (0 : BitVec 4).toNat = true → armed.arch.version < 7) ∧
    WordsMapped armed (armed.operand 0) (bitCount (0xfffe : BitVec 16)) (fun _ => 0) ∧
    WordsMapped armed (armed.operand 0 - listBytes 0xfffe + 4) (bitCount (0xfffe : BitVec 16)) (fun _ => 0) ∧
    WordsMapped armed (armed.operand 0 - listBytes 0xfffe) (bitCount (0xfffe : BitVec 16)) (fun _ => 0) ∧
    WordsMapped armed (armed.operand 0 + 4) (bitCount (0xfffe : BitVec 16)) (fun _ => 0) ∧
    armed6.served ∧ (true = true → (0xffff : BitVec 16).getLsbD (0 : BitVec 4).toNat = true → armed6.arch.version < 7) ∧
    WordsMapped armed6 (armed6.operand 0) (bitCount (0xffff : BitVec 16)) (fun _ => 0) ∧
    thumbed.served ∧ bitCount (list8 1) ≠ 0 ∧ WordsMapped thumbed (thumbed.operand (lowReg 7)) (bitCount (list8 1)) (fun _ => 0) ∧
    bitCount (list8 0xff) ≠ 0 ∧ WordsMapped thumbed (thumbed.operand (lowReg 7)) (bitCount (list8 0xff)) (fun _ => 0) ∧
    lastIT.served ∧ (14 : BitVec 4) ≠ 15 ∧ 2 ≤ bitCount (listPM13 true false 1) ∧ (true && false) = false ∧
    (true = true → lastIT.inITBlock = true → lastIT.lastInITBlock = true) ∧
    (true = true → (listPM13 true false 1).getLsbD (14 : BitVec 4).toNat = false) ∧
    WordsMapped lastIT (lastIT.operand 14) (bitCount (listPM13 true false 1)) (fun _ => 0) ∧
    WordsMapped lastIT (lastIT.operand 14 - listBytes (listPM13 true false 1)) (bitCount (listPM13 true false 1)) (fun _ => 0) := by
  and_intros
  all_goals first | rfl | decide | exact words_zeros rfl (by decide) (by decide)

theorem witness_StoreMultiples :
    armed.served ∧ thumbed.served ∧ (14 : BitVec 4) ≠ 15 ∧ bitCount (1 : BitVec 16) ≠ 0 ∧ bitCount (0xffff : BitVec 16) ≠ 0 ∧
    bitCount (list8 1) ≠ 0 ∧ bitCount (list8 0xff) ≠ 0 ∧ 2 ≤ bitCount (listM13 true 1) ∧
    (true = true → (listM13 true 1).getLsbD (13 : BitVec 4).toNat = false) ∧ 2 ≤ bitCount (listM13 false 0x1fff) ∧
    (false = true → (listM13 false 0x1fff).getLsbD (0 : BitVec 4).toNat = false) := by
  and_intros <;> first | rfl | decide

/-- The same state with the instruction at 0x1000, so that its literals stand in the mapped bytes. -/
def near (s : State) : State := { s with inst := { s.inst with addr := 0x1000 } }

/-- A load's address is mapped and, for the PC, aligned. -/
def Loads (s : State) (rt : RegNum) (size : Nat) (a : Word) : Prop :=
  Memory.readLE s.mem a size = some 0 ∧ (rt = 15 → a.extractLsb' 0 2 = 0)

/-- Literals, offset, pre-indexed and post-indexed forms, the PC as base and as destination, up to the last mapped word. -/
theorem witness_WordLoads :
    (near armed).served ∧ (false = false → false = false) ∧ (true = false → true = false) ∧ (true = false → false = false) ∧
    Loads (near armed) 15 4 (indexed true true (align4 (near armed).pcValue) ((0x94 : BitVec 12).setWidth 32)) ∧
    (0 : BitVec 4) ≠ 15 ∧ ((false = false ∨ false = true) → (0 : BitVec 4) ≠ 1) ∧
    ((true = false ∨ true = true) → (0 : BitVec 4) ≠ 15) ∧ ((true = false ∨ false = true) → (0 : BitVec 4) ≠ 0) ∧
    Loads armed 1 4 (indexed false true (armed.operand 0) ((0xfff : BitVec 12).setWidth 32)) ∧
    Loads armed 15 4 (indexed true false (armed.operand 0) ((0x40 : BitVec 12).setWidth 32)) ∧
    Loads armed 0 4 (indexed true true (armed.operand 0) ((0x5c : BitVec 12).setWidth 32)) ∧
    (14 : BitVec 4) ≠ 15 ∧ ((false = false ∨ false = true) → (0 : BitVec 4) ≠ 15 ∧ (0 : BitVec 4) ≠ 1) ∧
    ((true = false ∨ false = true) → (15 : BitVec 4) ≠ 15 ∧ (15 : BitVec 4) ≠ 1) ∧
    Loads (near armed) 1 4 (indexed true true ((near armed).operand 15)
      (shift ((near armed).operand 14) (decodeImmShift 1 6).1 (decodeImmShift 1 6).2 (near armed).carry)) ∧
    thumbed.served ∧ Loads thumbed (lowReg 7) 4 (indexed true true (thumbed.operand (lowReg 0)) ((23 : BitVec 5).setWidth 32 * 4)) ∧
    Loads (thumbed.setCore 1 4) (lowReg 7) 4
      (indexed true true ((thumbed.setCore 1 4).operand (lowReg 0)) ((thumbed.setCore 1 4).operand (lowReg 1))) ∧
    Loads thumbed (lowReg 7) 4 (indexed true true (thumbed.getCore 13) ((39 : BitVec 8).setWidth 32 * 4)) ∧
    Loads (near thumbed) (lowReg 7) 4 (indexed true true (align4 (near thumbed).pcValue) ((38 : BitVec 8).setWidth 32 * 4)) ∧
    (near lastIT).served ∧ ((15 : BitVec 4) = 15 → (near lastIT).inITBlock = true → (near lastIT).lastInITBlock = true) ∧
    Loads (near lastIT) 15 4 (indexed true false (align4 (near lastIT).pcValue) ((4 : BitVec 12).setWidth 32)) ∧
    inIT.served ∧ ((14 : BitVec 4) = 15 → inIT.inITBlock = true → inIT.lastInITBlock = true) ∧
    Loads inIT 14 4 (indexed true true (inIT.operand 14) ((0x5c : BitVec 12).setWidth 32)) ∧ badReg 14 = false ∧
    Loads (inIT.setCore 14 4) 1 4 (indexed true true ((inIT.setCore 14 4).operand 0)
      (shift ((inIT.setCore 14 4).operand 14) .lsl (3 : BitVec 2).toNat (inIT.setCore 14 4).carry)) ∧
    (true = true ∨ false = true) ∧ ¬ (true = true ∧ false = true ∧ false = false) ∧ (false = true → (0 : BitVec 4) ≠ 0) ∧
    Loads inIT 0 4 (indexed true false (inIT.operand 0) ((0x40 : BitVec 8).setWidth 32)) ∧
    (false = true ∨ true = true) ∧ ¬ (false = true ∧ true = true ∧ true = false) ∧ (true = true → (0 : BitVec 4) ≠ 1) ∧
    Loads inIT 1 4 (indexed false true (inIT.operand 0) ((0xff : BitVec 8).setWidth 32)) := by
  and_intros
  all_goals first | rfl | decide

theorem witness_ByteLoads :
    (near armed).served ∧ (false = false → false = false) ∧ (true = false → true = false) ∧ (true = false → false = false) ∧
    (14 : BitVec 4) ≠ 15 ∧
    Loads (near armed) 14 1 (indexed true true (align4 (near armed).pcValue) ((0x97 : BitVec 12).setWidth 32)) ∧
    (0 : BitVec 4) ≠ 15 ∧ ((false = false ∨ false = true) → (0 : BitVec 4) ≠ 14) ∧
    ((true = false ∨ true = true) → (0 : BitVec 4) ≠ 14) ∧ ((true = false ∨ false = true) → (0 : BitVec 4) ≠ 0) ∧
    Loads armed 14 1 (indexed false true (armed.operand 0) ((0xfff : BitVec 12).setWidth 32)) ∧
    Loads armed 14 1 (indexed true false (armed.operand 0) ((0x40 : BitVec 12).setWidth 32)) ∧
    Loads armed 0 1 (indexed true true (armed.operand 0) ((0x5f : BitVec 12).setWidth 32)) ∧
    ((false = false ∨ false = true) → (0 : BitVec 4) ≠ 15 ∧ (0 : BitVec 4) ≠ 1) ∧
    ((true = false ∨ false = true) → (15 : BitVec 4) ≠ 15 ∧ (15 : BitVec 4) ≠ 1) ∧
    Loads (near armed) 1 1 (indexed true true ((near armed).operand 15)
      (shift ((near armed).operand 14) (decodeImmShift 1 6).1 (decodeImmShift 1 6).2 (near armed).carry)) ∧
    thumbed.served ∧ Loads thumbed (lowReg 7) 1 (indexed true true (thumbed.operand (lowReg 0)) ((31 : BitVec 5).setWidth 32)) ∧
    Loads (thumbed.setCore 1 4) (lowReg 7) 1
      (indexed true true ((thumbed.setCore 1 4).operand (lowReg 0)) ((thumbed.setCore 1 4).operand (lowReg 1))) ∧
    (near inIT).served ∧ badReg 14 = false ∧
    Loads (near inIT) 14 1 (indexed true false (align4 (near inIT).pcValue) ((4 : BitVec 12).setWidth 32)) ∧
    Loads inIT 14 1 (indexed true true (inIT.operand 14) ((0x5f : BitVec 12).setWidth 32)) ∧
    Loads (inIT.setCore 14 4) 1 1 (indexed true true ((inIT.setCore 14 4).operand 0)
      (shift ((inIT.setCore 14 4).operand 14) .lsl (3 : BitVec 2).toNat (inIT.setCore 14 4).carry)) ∧
    (true = true ∨ false = true) ∧ ¬ (true = true ∧ false = true ∧ false = false) ∧ (false = true → (0 : BitVec 4) ≠ 0) ∧
    Loads inIT 0 1 (indexed true false (inIT.operand 0) ((0x40 : BitVec 8).setWidth 32)) ∧
    (false = true ∨ true = true) ∧ ¬ (false = true ∧ true = true ∧ true = false) ∧ (true = true → (0 : BitVec 4) ≠ 1) ∧
    Loads inIT 1 1 (indexed false true (inIT.operand 0) ((0xff : BitVec 8).setWidth 32)) := by
  and_intros
  all_goals first | rfl | decide

/-- Offset, pre-indexed and post-indexed forms; the PC as base and as stored register of the ARM offset form. -/
theorem witness_WordStores :
    armed.served ∧ thumbed.served ∧ (false = false → false = false) ∧ (true = false → true = false) ∧
    ((true = false ∨ false = true) → (15 : BitVec 4) ≠ 15 ∧ (15 : BitVec 4) ≠ 15) ∧
    ((false = false ∨ false = true) → (14 : BitVec 4) ≠ 15 ∧ (14 : BitVec 4) ≠ 15) ∧ (14 : BitVec 4) ≠ 15 ∧
    badReg 14 = false ∧ (true = true ∨ false = true) ∧ ¬ (true = true ∧ false = true ∧ false = false) ∧
    (false = true → (0 : BitVec 4) ≠ 0) ∧ (false = true ∨ true = true) ∧ ¬ (false = true ∧ true = true ∧ true = false) ∧
    (true = true → (0 : BitVec 4) ≠ 1) := by
  and_intros <;> first | rfl | decide

theorem witness_ByteStores :
    armed.served ∧ thumbed.served ∧ (false = false → false = false) ∧ (true = false → true = false) ∧ (14 : BitVec 4) ≠ 15 ∧
    ((true = false ∨ false = true) → (15 : BitVec 4) ≠ 15 ∧ (15 : BitVec 4) ≠ 14) ∧
    ((false = false ∨ false = true) → (0 : BitVec 4) ≠ 15 ∧ (0 : BitVec 4) ≠ 14) ∧
    badReg 14 = false ∧ badReg 12 = false ∧ (true = true ∨ false = true) ∧ ¬ (true = true ∧ false = true ∧ false = false) ∧
    (false = true → (0 : BitVec 4) ≠ 0) ∧ (false = true ∨ true = true) ∧ ¬ (false = true ∧ true = true ∧ true = false) ∧
    (true = true → (0 : BitVec 4) ≠ 1) := by
  and_intros <;> first | rfl | decide

theorem witness_SupervisorCalls : armed.served ∧ thumbed.served ∧ inIT.served := by
  and_intros <;> rfl

theorem witness_IfThen :
    thumbed.inITBlock = false ∧ (8 : BitVec 4) ≠ 0 ∧ (14 : BitVec 4) ≠ 15 ∧ ((14 : BitVec 4) = 14 → (8 : BitVec 4) = 8) ∧
    (1 : BitVec 4) ≠ 0 ∧ (13 : BitVec 4) ≠ 15 ∧ ((13 : BitVec 4) = 14 → (1 : BitVec 4) = 8) := by
  and_intros <;> first | rfl | decide

theorem witness_UnpredictableDataProcessing :
    inIT.inITBlock = true ∧ inIT.lastInITBlock = false ∧
    ((splitReg 0 7).toNat < 8 ∧ (7 : BitVec 4).toNat < 8) ∧ splitReg 1 7 = 15 ∧
    thumbExpandImmC ((0 : BitVec 1) ++ (1 : BitVec 3) ++ (0 : BitVec 8)) thumbed.carry = none ∧
    badReg 13 = true ∧ badReg 15 = true ∧
    (if (13 : BitVec 4) = 13 then (15 : BitVec 4) = 15 else badReg 15 = true ∨ (13 : BitVec 4) = 15) ∧
    (if (0 : BitVec 4) = 13 then (13 : BitVec 4) = 15 else badReg 13 = true ∨ (0 : BitVec 4) = 15) ∧
    (if (15 : BitVec 4) = 13 then (0 : BitVec 4) = 15 else badReg 0 = true ∨ (15 : BitVec 4) = 15) ∧
    (13 : BitVec 4) ≠ 15 ∧ (if (13 : BitVec 4) = 13 then (15 : BitVec 4) = 15 else badReg 15 = true) ∧
    (0 : BitVec 4) ≠ 15 ∧ (if (0 : BitVec 4) = 13 then (13 : BitVec 4) = 15 else badReg 13 = true) ∧
    (if (13 : BitVec 4) = 13 then (13 : BitVec 4) = 13 ∧
        ¬ ((decodeImmShift 0 ((1 : BitVec 3) ++ (0 : BitVec 2))).1 = .lsl ∧ (decodeImmShift 0 ((1 : BitVec 3) ++ (0 : BitVec 2))).2 ≤ 3)
      else (13 : BitVec 4) = 13 ∨ (13 : BitVec 4) = 15) ∧
    (if (0 : BitVec 4) = 13 then (13 : BitVec 4) = 13 ∧
        ¬ ((decodeImmShift 0 ((0 : BitVec 3) ++ (0 : BitVec 2))).1 = .lsl ∧ (decodeImmShift 0 ((0 : BitVec 3) ++ (0 : BitVec 2))).2 ≤ 3)
      else (13 : BitVec 4) = 13 ∨ (0 : BitVec 4) = 15) := by
  and_intros <;> first | rfl | decide

theorem witness_UnpredictableBranchesAndLists :
    badReg 13 = true ∧ badReg 15 = true ∧ inIT.inITBlock = true ∧ inIT.lastInITBlock = false ∧ (0 : BitVec 4).toNat < 14 ∧
    (13 : BitVec 4).toNat < 14 ∧ (1 : BitVec 4) ≠ 0 ∧ ((14 : BitVec 4) = 14 ∧ (4 : BitVec 4) ≠ 8) ∧
    (0x2000 : BitVec 16).getLsbD 13 = true ∧ 7 ≤ armed.arch.version ∧ bitCount (listM13 true 0) < 2 ∧
    bitCount (listM13 false 1) < 2 ∧ bitCount (listPM13 true false 0) < 2 ∧
    (33 : BitVec 8).getLsbD 0 = true ∧ (0 : BitVec 8).toNat / 2 = 0 ∧ 16 < (34 : BitVec 8).toNat / 2 ∧
    32 < ((1 : BitVec 1) ++ (15 : BitVec 4)).toNat + (4 : BitVec 8).toNat / 2 ∧
    32 < ((15 : BitVec 4) ++ (1 : BitVec 1)).toNat + (2 : BitVec 8).toNat ∧
    (0x8000 : BitVec 16).getLsbD (15 : BitVec 4).toNat = true ∧ (1 : BitVec 16).getLsbD (0 : BitVec 4).toNat = true ∧
    (true = true ∧ (listPM13 false true 3).getLsbD (14 : BitVec 4).toNat = true) ∧
    (true = true ∧ (listM13 false 3).getLsbD (0 : BitVec 4).toNat = true) := by
  and_intros <;> first | rfl | decide

theorem witness_UnpredictableLoadsAndStores :
    (false = false → false = false) ∧ ((false = false ∨ false = true) ∧ (0 : BitVec 4) = 0) ∧
    (true = false → true = false) ∧ ((true = false ∨ true = true) ∧ ((15 : BitVec 4) = 15 ∨ (15 : BitVec 4) = 0)) ∧
    ((15 : BitVec 4) = 15 ∧ inIT.inITBlock = true ∧ inIT.lastInITBlock = false) ∧ badReg 13 = true ∧ badReg 15 = true ∧
    ¬ (true = true ∧ true = true ∧ true = false) ∧ (true = true ∧ (0 : BitVec 4) = 0) ∧
    ¬ (false = true ∧ true = true ∧ false = false) ∧ (false = false ∧ false = false) ∧ (14 : BitVec 4) ≠ 15 ∧
    ¬ ((15 : BitVec 4) = 15 ∧ true = true ∧ true = true ∧ true = false) := by
  and_intros <;> first | rfl | decide

theorem witness_OutsideTheSubset : 14 ≤ (14 : BitVec 4).toNat ∧ 14 ≤ (15 : BitVec 4).toNat := by decide

/-- The same state with only `n` bytes mapped from 0x1040 on. -/
def mapped (n : Nat) (s : State) : State := { s with mem := zeros 0x1040 n }

/-- Three bytes mapped, and 1 in R2. -/
def shortArm : State := (mapped 3 armed).setCore 2 1
def shortThumb : State := (mapped 3 thumbed).setCore 2 1
def shortLast : State := (mapped 3 lastIT).setCore 2 1

/-- A load of the PC from a misaligned address. -/
abbrev MisalignedPC (rt : RegNum) (a : Word) : Prop := rt = 15 ∧ a.extractLsb' 0 2 ≠ 0

/-- A load, aligned where it loads the PC, from bytes that are not all mapped. -/
abbrev NotMapped (s : State) (rt : RegNum) (size : Nat) (a : Word) : Prop :=
  (rt = 15 → a.extractLsb' 0 2 = 0) ∧ Memory.readLE s.mem a size = none

/-- Two words mapped at 0x1040, and a base register for each list load: SP, R0 and R1 to R3 so that a list of three words begins
at 0x1040. -/
def twoWords (s : State) : State :=
  ((((mapped 8 s).setCore 13 0x1040).setCore 1 0x1048).setCore 2 0x104c).setCore 3 0x103c

theorem twoWords_mapped {s : State} (h : s.mem = zeros 0x1040 8) :
    WordsMapped s 0x1040 2 (fun _ => 0) ∧ Memory.readLE s.mem (0x1040 + BitVec.ofNat 32 (4 * 2)) 4 = none := by
  refine ⟨fun k hk => ?_, by rw [h]; rfl⟩
  rw [h]
  match k, hk with
  | 0, _ => rfl
  | 1, _ => rfl

/-- Single loads of each form: misaligned and of the PC; aligned and mapped but for the last byte; not mapped at all. -/
theorem witness_FailedLoads_single :
    shortArm.served ∧ shortThumb.served ∧ shortLast.served ∧ shortThumb.inITBlock = false ∧ shortLast.lastInITBlock = true ∧
    (true = false → false = false) ∧ (false = false → false = false) ∧ ((true = false ∨ true = true) → (0 : BitVec 4) ≠ 1) ∧
    ((false = false ∨ false = true) → (0 : BitVec 4) ≠ 15 ∧ (0 : BitVec 4) ≠ 1) ∧
    MisalignedPC 15 (indexed true true (align4 shortArm.pcValue) ((1 : BitVec 12).setWidth 32)) ∧
    NotMapped shortArm 15 4 (indexed true true (align4 shortArm.pcValue) ((0 : BitVec 12).setWidth 32)) ∧
    MisalignedPC 15 (indexed true true (shortArm.operand 0) ((1 : BitVec 12).setWidth 32)) ∧
    NotMapped shortArm 15 4 (indexed true true (shortArm.operand 0) ((0 : BitVec 12).setWidth 32)) ∧
    NotMapped shortArm 1 4 (indexed false true (shortArm.operand 0) ((4 : BitVec 12).setWidth 32)) ∧
    MisalignedPC 15 (indexed true true (shortArm.operand 0)
      (shift (shortArm.operand 2) (decodeImmShift 0 0).1 (decodeImmShift 0 0).2 shortArm.carry)) ∧
    NotMapped shortArm 15 4 (indexed true false (shortArm.operand 0)
      (shift (shortArm.operand 2) (decodeImmShift 0 2).1 (decodeImmShift 0 2).2 shortArm.carry)) ∧
    NotMapped shortThumb (lowReg 1) 4 (indexed true true (shortThumb.operand (lowReg 0)) ((0 : BitVec 5).setWidth 32 * 4)) ∧
    NotMapped shortThumb (lowReg 1) 4 (indexed true true (shortThumb.operand (lowReg 0)) (shortThumb.operand (lowReg 2))) ∧
    NotMapped shortThumb (lowReg 1) 4 (indexed true true (shortThumb.getCore 13) ((0xff : BitVec 8).setWidth 32 * 4)) ∧
    NotMapped shortThumb (lowReg 1) 4 (indexed true true (align4 shortThumb.pcValue) ((1 : BitVec 8).setWidth 32 * 4)) ∧
    MisalignedPC 15 (indexed true false (align4 shortLast.pcValue) ((1 : BitVec 12).setWidth 32)) ∧
    NotMapped shortThumb 1 4 (indexed true false (align4 shortThumb.pcValue) ((1 : BitVec 12).setWidth 32)) ∧
    MisalignedPC 15 (indexed true true (shortThumb.operand 0) ((2 : BitVec 12).setWidth 32)) ∧
    NotMapped shortLast 15 4 (indexed true true (shortLast.operand 0) ((0 : BitVec 12).setWidth 32)) ∧
    badReg 2 = false ∧ MisalignedPC 15 (indexed true true (shortThumb.operand 0) (shift (shortThumb.operand 2) .lsl 1 shortThumb.carry)) ∧
    NotMapped shortThumb 15 4 (indexed true true (shortThumb.operand 0) (shift (shortThumb.operand 2) .lsl 2 shortThumb.carry)) ∧
    ¬ (true = true ∧ false = true ∧ true = false) ∧
    MisalignedPC 15 (indexed true false (shortThumb.operand 0) ((1 : BitVec 8).setWidth 32)) ∧
    NotMapped shortThumb 15 4 (indexed false true (shortThumb.operand 0) ((1 : BitVec 8).setWidth 32)) ∧
    badReg 1 = false ∧
    NotMapped shortArm 1 1 (indexed true true (align4 shortArm.pcValue) ((0 : BitVec 12).setWidth 32)) ∧
    NotMapped shortArm 1 1 (indexed true true (shortArm.operand 0) ((3 : BitVec 12).setWidth 32)) ∧
    NotMapped shortArm 1 1 (indexed true false (shortArm.operand 0)
      (shift (shortArm.operand 2) (decodeImmShift 0 0).1 (decodeImmShift 0 0).2 shortArm.carry)) ∧
    NotMapped shortThumb (lowReg 1) 1 (indexed true true (shortThumb.operand (lowReg 0)) ((3 : BitVec 5).setWidth 32)) ∧
    NotMapped shortThumb (lowReg 1) 1 (indexed true true (shortThumb.operand (lowReg 0)) (shortThumb.operand (lowReg 3))) ∧
    NotMapped shortThumb 1 1 (indexed true true (align4 shortThumb.pcValue) ((0 : BitVec 12).setWidth 32)) ∧
    NotMapped shortThumb 1 1 (indexed true true (shortThumb.operand 0) ((3 : BitVec 12).setWidth 32)) ∧
    NotMapped shortThumb 1 1 (indexed true true (shortThumb.operand 0) (shift (shortThumb.operand 2) .lsl 2 shortThumb.carry)) ∧
    NotMapped shortThumb 1 1 (indexed true false (shortThumb.operand 0) ((1 : BitVec 8).setWidth 32)) := by
  and_intros <;> first | rfl | decide

/-- Table entries whose only byte, or whose second byte, is not mapped; an SP whose first word is not. Lists of three words of
which the third is not mapped, the base in the list and written back on an ARMv6 machine too; extension registers likewise. -/
theorem witness_FailedLoads :
    (shortLast.served ∧ (shortLast.inITBlock = true → shortLast.lastInITBlock = true) ∧ (0 : BitVec 4) ≠ 13 ∧ badReg 2 = false ∧
      badReg 3 = false ∧ Memory.readLE shortLast.mem (shortLast.operand 0 + shortLast.operand 3) 1 = none ∧
      Memory.readLE shortLast.mem (shortLast.operand 0 + shortLast.operand 2 <<< 1) 2 = none) ∧
    (0 < bitCount (oneReg 15) ∧ (15 : BitVec 4) ≠ 13 ∧ WordsMapped shortLast (shortLast.getCore 13) 0 (fun _ => 0) ∧
      Memory.readLE shortLast.mem (shortLast.getCore 13 + BitVec.ofNat 32 (4 * 0)) 4 = none) ∧
    (∀ s ∈ [twoWords armed, twoWords armed6, twoWords thumbed, twoWords lastIT],
      s.served ∧ (s.inITBlock = true → s.lastInITBlock = true) ∧
      s.getCore 13 = 0x1040 ∧ s.operand 0 = 0x1040 ∧ s.operand 1 - listBytes 0x8011 + 4 = 0x1040 ∧
      s.operand 2 - listBytes 0x8011 = 0x1040 ∧ s.operand 3 + 4 = 0x1040 ∧ s.operand 2 - listBytes (listPM13 true false 0x11) = 0x1040 ∧
      WordsMapped s 0x1040 2 (fun _ => 0) ∧ Memory.readLE s.mem (0x1040 + BitVec.ofNat 32 (4 * 2)) 4 = none ∧
      (∀ k < 1, Memory.readLE s.mem (s.getCore 13 + BitVec.ofNat 32 (8 * k)) 8 = some ((fun _ => 0) k)) ∧
      Memory.readLE s.mem (s.getCore 13 + BitVec.ofNat 32 (8 * 1)) 8 = none ∧
      (∀ k < 2, Memory.readLE s.mem (s.getCore 13 + BitVec.ofNat 32 (4 * k)) 4 = some ((fun _ => 0) k)) ∧
      Memory.readLE s.mem (s.getCore 13 + BitVec.ofNat 32 (4 * 2)) 4 = none) ∧
    (twoWords armed6).arch.version < 7 ∧ (0x8011 : BitVec 16).getLsbD (0 : BitVec 4).toNat = true ∧
    2 < bitCount (0x8011 : BitVec 16) ∧ (0x8011 : BitVec 16).getLsbD 13 = false ∧ 2 < bitCount (0x2011 : BitVec 16) ∧
    2 < bitCount (listP8 true 3) ∧ 2 < bitCount (listPM13 true false 0x11) ∧ 2 < bitCount (list8 7) ∧
    (listPM13 true false 0x11).getLsbD (2 : BitVec 4).toNat = false ∧
    (extListD 1 14 4).count = 2 ∧ (extListD 1 14 4).size = 8 ∧
    ((4 : BitVec 8).getLsbD 0 = false ∧ 0 < (4 : BitVec 8).toNat / 2 ∧ (4 : BitVec 8).toNat / 2 ≤ 16 ∧
      ((1 : BitVec 1) ++ (14 : BitVec 4)).toNat + (4 : BitVec 8).toNat / 2 ≤ 32) ∧
    (extListS 1 14 3).count = 3 ∧ (extListS 1 14 3).size = 4 ∧
    (0 < (3 : BitVec 8).toNat ∧ ((14 : BitVec 4) ++ (1 : BitVec 1)).toNat + (3 : BitVec 8).toNat ≤ 32) := by
  refine ⟨?_, ?_, ?_, ?_⟩
  · and_intros <;> first | rfl | decide
  · refine ⟨by decide, by decide, fun k hk => absurd hk (Nat.not_lt_zero k), rfl⟩
  · have hd : ∀ s : State, s.mem = zeros 0x1040 8 → s.getCore 13 = 0x1040 →
        (∀ k < 1, Memory.readLE s.mem (s.getCore 13 + BitVec.ofNat 32 (8 * k)) 8 = some 0) ∧
        Memory.readLE s.mem (s.getCore 13 + BitVec.ofNat 32 (8 * 1)) 8 = none := by
      intro s hm h13
      rw [hm, h13]
      exact ⟨fun k hk => by rw [Nat.lt_one_iff.1 hk]; rfl, rfl⟩
    intro s hs
    have hm : s.mem = zeros 0x1040 8 ∧ s.getCore 13 = 0x1040 := by
      simp only [List.mem_cons, List.not_mem_nil, or_false] at hs
      rcases hs with rfl | rfl | rfl | rfl <;> exact ⟨rfl, rfl⟩
    obtain ⟨w, w'⟩ := twoWords_mapped hm.1
    refine ⟨?_, ?_, hm.2, ?_, ?_, ?_, ?_, ?_, w, w', (hd s hm.1 hm.2).1, (hd s hm.1 hm.2).2, by rw [hm.2]; exact w,
        by rw [hm.2]; exact w'⟩
    all_goals
      simp only [List.mem_cons, List.not_mem_nil, or_false] at hs
      rcases hs with rfl | rfl | rfl | rfl <;> first | rfl | decide
  · and_intros <;> first | rfl | decide

/-- An instruction that completes, and a load that ends with a refused read. -/
theorem witness_PortCallsOfAnInstruction :
    (∃ t, exec (.addImmA1 14 true 0 1 1) armed = .next t ∧ t.fault ≠ some .accessFailure) ∧
    (∃ t, exec (.ldrImmA1 14 true true false 0 1 0) (mapped 3 armed) = .next t ∧ t.fault = some .accessFailure) :=
  ⟨⟨_, rfl, by decide⟩, ⟨_, rfl, rfl⟩⟩

/-- A state of the run loop: these bytes at the PC 0x8000, this status value, ARMv7, and nothing else mapped. -/
def running (cpsr : Word) (bytes : List Byte) : State := start .armv7 cpsr 0x8000 [] [(0x8000, bytes)]

/-- ADD r1, r0, #1 in ARM. -/
def runAdd : State := running 0x10 (encodeBytes (.addImmA1 14 false 0 1 1))
/-- BLX to Thumb code. -/
def runBlx : State := running 0x10 (encodeBytes (.blxImmA2 0 1))

theorem witness_ModeFollowsTheStatusRegister :
    (ModeMatches armed ∧ ∃ t, exec (.bxA1 14 0) armed = .next t ∧ t.fault = none) ∧
    (ModeMatches thumbed ∧ ∃ t, exec (.bxT1 0) thumbed = .next t ∧ t.fault = none) ∧
    (runAdd.script = [] ∧ ∃ t, step runAdd = .next t ∧ t.fault = none) ∧
    (runBlx.script = [] ∧ ∃ t, step runBlx = .next t ∧ t.fault = none) := by
  refine ⟨⟨?_, _, rfl, rfl⟩, ⟨?_, _, rfl, rfl⟩, ⟨rfl, _, rfl, rfl⟩, ⟨rfl, _, rfl, rfl⟩⟩ <;> unfold ModeMatches <;> decide

theorem witness_InvariantKept :
    (State.reset.Inv ∧ ∃ t, step State.reset = .next t) ∧ (runAdd.Inv ∧ ∃ t, step runAdd = .next t) := by
  refine ⟨⟨⟨?_, ?_, ?_⟩, _, rfl⟩, ⟨⟨?_, ?_, ?_⟩, _, rfl⟩⟩
  all_goals first | decide | (unfold ITSession.wf; decide) | (unfold Latch.wf; decide)

theorem witness_RoundTripArm : (Instr.ldmA1 14 true 15 0xffff).form = (.arm, .w32) ∧ (Instr.ldmA1 14 true 15 0xffff).wellFormed = true := by
  and_intros <;> rfl

theorem witness_RoundTripThumb16 : (Instr.bT1 14 0xff).form = (.thumb, .w16) ∧ (Instr.bT1 14 0xff).wellFormed = true := by
  and_intros <;> rfl

theorem witness_RoundTripThumb32 : (Instr.tbhT1 15 15).form = (.thumb, .w32) ∧ (Instr.tbhT1 15 15).wellFormed = true := by
  and_intros <;> rfl

/-- An instruction of each form that completes, one whose condition fails, and one that fails. -/
theorem witness_StepRunsTheDecodedInstruction :
    (runAdd.served ∧ runAdd.script = [] ∧ runAdd.stopped = false ∧ runAdd.params.haltAddress ≠ some (runAdd.getCore 15) ∧
      FetchesAt runAdd (.addImmA1 14 false 0 1 1) ∧
      lookup runAdd.params runAdd.arch runAdd.nextSet .w32 (encode (.addImmA1 14 false 0 1 1)) = some (.addImmA1 14 false 0 1 1) ∧
      conditionPassed (currentCond (runAdd.fetched (.addImmA1 14 false 0 1 1) []) (.addImmA1 14 false 0 1 1)) runAdd.status = true ∧
      ∃ t, exec (.addImmA1 14 false 0 1 1) (runAdd.fetched (.addImmA1 14 false 0 1 1) []) = .next t ∧ t.fault = none) ∧
    (let i : Instr := .addImmA1 0 false 0 1 1;
      let s := running 0x10 (encodeBytes i);
      s.served ∧ s.script = [] ∧ s.stopped = false ∧ s.params.haltAddress ≠ some (s.getCore 15) ∧ FetchesAt s i ∧
      lookup s.params s.arch s.nextSet i.form.2 (encode i) = some i ∧
      conditionPassed (currentCond (s.fetched i []) i) s.status = false) ∧
    (let i : Instr := .ldrImmA1 14 true true false 0 1 0;
      let s := running 0x10 (encodeBytes i);
      s.served ∧ s.script = [] ∧ s.stopped = false ∧ s.params.haltAddress ≠ some (s.getCore 15) ∧ FetchesAt s i ∧
      lookup s.params s.arch s.nextSet i.form.2 (encode i) = some i ∧
      conditionPassed (currentCond (s.fetched i []) i) s.status = true ∧
      ∃ t, exec i (s.fetched i []) = .next t ∧ t.fault ≠ none) ∧
    (let i : Instr := .addImmT2 1 1;
      let s := running 0x30 (encodeBytes i);
      s.served ∧ s.script = [] ∧ s.stopped = false ∧ s.params.haltAddress ≠ some (s.getCore 15) ∧ FetchesAt s i ∧
      lookup s.params s.arch s.nextSet i.form.2 (encode i) = some i ∧
      conditionPassed (currentCond (s.fetched i []) i) s.status = true ∧
      ∃ t, exec i (s.fetched i []) = .next t ∧ t.fault = none) ∧
    (let i : Instr := .addImmT3 0 true 0 0 1 1;
      let s := running 0x30 (encodeBytes i);
      s.served ∧ s.script = [] ∧ s.stopped = false ∧ s.params.haltAddress ≠ some (s.getCore 15) ∧ FetchesAt s i ∧
      lookup s.params s.arch s.nextSet i.form.2 (encode i) = some i ∧
      conditionPassed (currentCond (s.fetched i []) i) s.status = true ∧
      ∃ t, exec i (s.fetched i []) = .next t ∧ t.fault = none) := by
  refine ⟨⟨rfl, rfl, rfl, nofun, ⟨rfl, rfl, ?_⟩, rfl, rfl, _, rfl, rfl⟩,
    ⟨rfl, rfl, rfl, nofun, ⟨rfl, rfl, ?_⟩, rfl, rfl⟩,
    ⟨rfl, rfl, rfl, nofun, ⟨rfl, rfl, ?_⟩, rfl, rfl, _, rfl, nofun⟩,
    ⟨rfl, rfl, rfl, nofun, ⟨rfl, rfl, ?_⟩, rfl, rfl, _, rfl, rfl⟩,
    ⟨rfl, rfl, rfl, nofun, ⟨rfl, rfl, ?_⟩, rfl, rfl, _, rfl, rfl⟩⟩
  all_goals decide

/-- A latch that holds this ARM word. -/
def latched (raw : Word) : State :=
  { armed with inst := { valid := true, raw := raw, width := .w32, mode := .arm, addr := 0x8000, cpsr := 0x10 } }

/-- IT T1 latched by a host that refuses writes of the PC. -/
def itRefusedAdvance : State :=
  { thumbed with
    inst := { valid := true, raw := 0xbf18, width := .w16, mode := .thumb, addr := 0x8000, cpsr := 0x30 }
    refusals := [.writeReg (.core 15)] }

/-- A refused PC advance after IT fails the command, and no session starts (41_condition_it.md rule R178 (c)). -/
theorem test_it_refused_advance :
    ∃ t, evaluateInstruction itRefusedAdvance = .next t ∧ t.fault = some .accessFailure ∧ t.it = { state := 0, remaining := 0 } :=
  ⟨_, rfl, rfl, rfl⟩

/-- A completed instruction; a command without an instruction, one whose word is no row and one whose PC advance is refused; a
failed turn of the run loop. -/
theorem witness_SettingsKept :
    (∃ t, exec (.addImmA1 14 true 0 1 1) armed = .next t ∧ ∀ firstcond mask, Instr.addImmA1 14 true 0 1 1 ≠ .itT1 firstcond mask) ∧
    (∃ t, evaluateInstruction State.reset = .next t ∧ t.fault ≠ none) ∧
    (∃ t, evaluateInstruction (latched 0xe7f000f0) = .next t ∧ t.fault ≠ none) ∧
    (∃ t, evaluateInstruction itRefusedAdvance = .next t ∧ t.fault ≠ none) ∧
    (State.reset.script = [] ∧ ∃ t, step State.reset = .next t ∧ t.fault ≠ none) :=
  ⟨⟨_, rfl, fun _ _ => nofun⟩, ⟨_, rfl, nofun⟩, ⟨_, rfl, nofun⟩, ⟨_, rfl, nofun⟩, rfl, _, rfl, nofun⟩

theorem witness_EvaluateWithoutAHandler :
    State.reset.inst.valid = false ∧
    ((latched 0xe7f000f0).inst.valid = true ∧
      lookup (latched 0xe7f000f0).params (latched 0xe7f000f0).arch .arm .w32 0xe7f000f0 = none) ∧
    ((latched 0x02801001).inst.valid = true ∧
      lookup (latched 0x02801001).params (latched 0x02801001).arch .arm .w32 0x02801001 = some (.addImmA1 0 false 0 1 1) ∧
      conditionPassed (currentCond (latched 0x02801001) (.addImmA1 0 false 0 1 1)) (latched 0x02801001).inst.cpsr = false ∧
      (latched 0x02801001).served) := by
  and_intros <;> rfl

/-- An ARM word; a narrow and a wide Thumb instruction; a second halfword that is not mapped; a misaligned PC and no memory. -/
theorem witness_ReadingAnInstruction :
    (runAdd.served ∧ flagT runAdd.status = false ∧ (runAdd.getCore 15).extractLsb' 0 2 = 0 ∧
      Memory.readLE runAdd.mem (runAdd.getCore 15) 4 = some 0xe2801001) ∧
    (let s := running 0x30 [0x01, 0x31];
      s.served ∧ flagT s.status = true ∧ (s.getCore 15).getLsbD 0 = false ∧
      Memory.readLE s.mem (s.getCore 15) 2 = some 0x3101 ∧ thumbIsWide ((0x3101 : DWord).setWidth 16) = false) ∧
    (let s := running 0x30 [0x10, 0xf1, 0x01, 0x01];
      s.served ∧ flagT s.status = true ∧ (s.getCore 15).getLsbD 0 = false ∧
      Memory.readLE s.mem (s.getCore 15) 2 = some 0xf110 ∧ thumbIsWide ((0xf110 : DWord).setWidth 16) = true ∧
      Memory.readLE s.mem (s.getCore 15 + 2) 2 = some 0x0101) ∧
    (let s := running 0x30 [0x10, 0xf1, 0x01];
      s.served ∧ flagT s.status = true ∧ (s.getCore 15).getLsbD 0 = false ∧
      Memory.readLE s.mem (s.getCore 15) 2 = some 0xf110 ∧ thumbIsWide ((0xf110 : DWord).setWidth 16) = true ∧
      Memory.readLE s.mem (s.getCore 15 + 2) 2 = none) ∧
    (let s := runAdd.setCore 15 0x8002;
      s.served ∧ flagT s.status = false ∧ (s.getCore 15).extractLsb' 0 2 ≠ 0) ∧
    (let s := running 0x10 [0x01, 0x10, 0x80];
      s.served ∧ flagT s.status = false ∧ Memory.readLE s.mem (s.getCore 15) 4 = none) ∧
    (let s := (running 0x30 [0x01, 0x31]).setCore 15 0x8001;
      s.served ∧ flagT s.status = true ∧ (s.getCore 15).getLsbD 0 = true) ∧
    (let s := running 0x30 [0x01];
      s.served ∧ flagT s.status = true ∧ Memory.readLE s.mem (s.getCore 15) 2 = none) := by
  and_intros <;> first | rfl | decide

/-- A push and a pop of r4 and lr, of one register, and of D31 and S31, from a stack that was not mapped. -/
theorem witness_PushThenPop :
    (PushOf 0x4010 (.pushA1 14 0x4010) ∧ PopOf 0x4010 (.popA1 14 0x4010) ∧ PushOf 0x4010 (.pushT2 true 0x10) ∧
      PopOf 0x4010 (.popT2 false true 0x10) ∧ PushOf 1 (.pushT1 false 1) ∧ PopOf 1 (.popT1 false 1) ∧ PushOf 1 (.pushA2 14 0) ∧
      PopOf 1 (.popA2 14 0) ∧ PushOf 1 (.pushT3 0) ∧ PopOf 1 (.popT3 0) ∧ bitCount (0x4010 : BitVec 16) ≠ 0 ∧
      (0x4010 : BitVec 16).getLsbD 13 = false ∧ (0x4010 : BitVec 16).getLsbD 15 = false ∧
      ∃ s1, exec (.pushA1 14 0x4010) (mapped 0 armed) = .next s1 ∧ (mapped 0 armed).served ∧ s1.served ∧ s1.mem = s1.mem ∧
        s1.getCore 13 = s1.getCore 13) ∧
    (VPushOf (extListD 1 15 2) (.vpushA1 14 1 15 2) ∧ VPopOf (extListD 1 15 2) (.vpopT1 1 15 2) ∧
      ∃ s1, exec (.vpushA1 14 1 15 2) (mapped 0 armed) = .next s1 ∧ (mapped 0 armed).served ∧ s1.served ∧ s1.mem = s1.mem ∧
        s1.getCore 13 = s1.getCore 13) ∧
    (VPushOf (extListS 1 15 1) (.vpushT2 1 15 1) ∧ VPopOf (extListS 1 15 1) (.vpopA2 14 1 15 1) ∧
      ∃ s1, exec (.vpushT2 1 15 1) (mapped 0 thumbed) = .next s1 ∧ (mapped 0 thumbed).served ∧ s1.served ∧ s1.mem = s1.mem ∧
        s1.getCore 13 = s1.getCore 13) := by
  refine ⟨⟨.inl ⟨_, rfl⟩, .inl ⟨_, rfl⟩, .inr (.inr (.inr (.inl ⟨_, _, rfl, rfl, by decide⟩))),
      .inr (.inr (.inr (.inl ⟨_, _, rfl, rfl, by decide⟩))), .inr (.inr (.inl ⟨_, _, rfl, rfl⟩)), .inr (.inr (.inl ⟨_, rfl, rfl⟩)),
      .inr (.inl ⟨_, _, rfl, rfl⟩), .inr (.inl ⟨_, _, rfl, rfl⟩), .inr (.inr (.inr (.inr ⟨_, rfl, rfl⟩))),
      .inr (.inr (.inr (.inr ⟨_, rfl, rfl⟩))), by decide, rfl, rfl, _, rfl, rfl, rfl, rfl, rfl⟩,
    ⟨.inl ⟨14, _, _, _, .inl rfl, rfl, rfl⟩, .inl ⟨14, _, _, _, .inr rfl, rfl, rfl⟩, _, rfl, rfl, rfl, rfl, rfl⟩,
    ⟨.inr ⟨14, _, _, _, .inr rfl, rfl, rfl⟩, .inr ⟨14, _, _, _, .inl rfl, rfl, rfl⟩, _, rfl, rfl, rfl, rfl, rfl⟩⟩

/-- The parameters with the filters switched on. -/
def strict : Params := { Params.default with strictCond1111 := true, strictVariantGating := true }

theorem witness_RowFilters :
    Params.default.strictVariantGating = false ∧
    ¬ (strict.strictCond1111 = true ∧ InstrSet.arm = .arm ∧ (0xe2801001 : Word).extractLsb' 28 4 = 15) ∧
    lookup strict .armv4 .arm .w32 0xe2801001 = some (.addImmA1 14 false 0 1 1) ∧
    (strict.strictCond1111 = true ∧ InstrSet.arm = .arm ∧ (0xfa000001 : Word).extractLsb' 28 4 = 15) ∧
    lookup { strict with strictCond1111 := false } .armv7 .arm .w32 0xfa000001 = some (.blxImmA2 0 1) ∧
    lookup strict .armv7 .arm .w32 0xfa000001 = some (.blxImmA2 0 1) ∧
    lookup strict .armv4 .arm .w32 0xe12fff30 = none ∧ lookup Params.default .armv7 .arm .w32 0xe7f000f0 = none := by
  and_intros <;> first | rfl | decide

theorem witness_RunLoopStops :
    (runAdd.script = [] ∧ runAdd.stopped = false ∧ runAdd.params.haltAddress ≠ some (runAdd.getCore 15)) ∧
    (({ runAdd with stopped := true } : State).script = [] ∧ ({ runAdd with stopped := true } : State).stopped = true) ∧
    (({ runAdd with params := { Params.default with haltAddress := some 0x8000 } } : State).script = [] ∧
      ({ runAdd with params := { Params.default with haltAddress := some 0x8000 } } : State).stopped = false ∧
      ({ runAdd with params := { Params.default with haltAddress := some 0x8000 } } : State).params.haltAddress =
        some (({ runAdd with params := { Params.default with haltAddress := some 0x8000 } } : State).getCore 15)) := by
  and_intros <;> first | rfl | nofun

theorem witness_ITSessionLife :
    initIT 0x18 = some { state := 0x18, remaining := 1 } ∧ 1 ≤ 1 ∧ initIT 0xe8 = some { state := 0xe8, remaining := 1 } ∧
    initIT 0x01 = some { state := 0x01, remaining := 4 } ∧ 4 ≤ 4 ∧ (0x10 : BitVec 8).extractLsb' 0 4 = 0 ∧
    (0xf8 : BitVec 8).extractLsb' 4 4 = 15 ∧ 0 < (ITSession.mk 8 1).remaining ∧ 0 < (ITSession.mk 1 4).remaining := by
  and_intros <;> first | rfl | decide

theorem witness_PcWritePolicies :
    (∃ t, writeReg .branch 15 0x8001 armed = .ok () t) ∧ (0x8001 : Word).getLsbD 0 = true ∧ (0x8000 : Word).getLsbD 0 = false ∧
    5 ≤ armed.arch.version ∧ 7 ≤ armed.arch.version ∧ armed.mode = .arm ∧ ¬ 7 ≤ armed6.arch.version ∧
    ¬ 5 ≤ State.reset.arch.version := by
  refine ⟨⟨_, rfl⟩, ?_⟩
  and_intros <;> first | rfl | decide

theorem witness_SelectingAnArchitecture :
    "ARMv7".toList.map Char.toLower = "armv7".toList ∧ "armv5TEJ".toList.map Char.toLower = "armv5tej".toList ∧
    ∀ n ∈ ["armv4", "armv4t", "armv5t", "armv5te", "armv5tej", "armv6", "armv6k", "armv6t2", "armv7", "armv8"],
      "armv9".toList.map Char.toLower ≠ n.toList := by
  decide

theorem witness_ShifterAndExpansions : SRType.lsl ≠ .rrx ∧ SRType.ror ≠ .rrx ∧ 0 < 1 ∧ 0 < 33 ∧ 8 ≤ (8 : BitVec 5).toNat ∧
    8 ≤ (31 : BitVec 5).toNat := by
  decide

/-- Nothing mapped, and a store over the top of the address space. -/
theorem witness_MemoryBytes :
    Memory.wf [] ∧ 8 ≤ 8 ∧ 0 ≤ 8 ∧ Memory.wf (Memory.writeLE [] 0xfffffffe 0x0102030405060708 8) ∧
    (∀ k < 8, 0x10 ≠ ((0xfffffffe : Word) + BitVec.ofNat 32 k).toNat) := by
  decide

theorem witness_TaggedWrites : armed.served ∧ (14 : BitVec 4) ≠ 15 ∧ (13 : BitVec 4) ≠ 15 ∧ (14 : BitVec 4) ≠ 13 := by
  and_intros <;> first | rfl | decide

end Sys2Proof.Tests
end

section
/-! Proofs of the statements about the state: the invariant of a step, the settings that no instruction changes, `MODE` and bit T
of the status register, memory as bytes. -/

namespace Sys2Proof.Machine

/-! ## Settings and session of an instruction -/

theorem SameBlock.refl (s : State) : SameBlock s s := ⟨rfl, rfl, rfl, rfl, rfl, rfl, rfl⟩

theorem SameBlock.trans {s t u : State} (h : SameBlock s t) (k : SameBlock t u) : SameBlock s u :=
  ⟨k.params.trans h.params, k.arch.trans h.arch, k.it.trans h.it, k.inst.trans h.inst, k.refusals.trans h.refusals,
    k.script.trans h.script, k.stopped.trans h.stopped⟩

theorem sameBlock_note (s : State) (c : PortCall) : SameBlock s (s.note c) := ⟨rfl, rfl, rfl, rfl, rfl, rfl, rfl⟩

theorem sameBlock_portWriteRegister (ctx : Context) (r : PortReg) (v : DWord) (s : State) :
    SameBlock s (portWriteRegister ctx r v s).2 := by
  constructor <;> simp

theorem sameBlock_portWriteMemory (ctx : Context) (a : Word) (n : Nat) (v : DWord) (s : State) :
    SameBlock s (portWriteMemory ctx a n v s).2 := by
  constructor <;> simp

/-- A status write that goes with a new staged value. -/
theorem sameBlock_stagedWrite (ctx : Context) (v : DWord) (s : State) (out : Word) :
    SameBlock s (portWriteRegister ctx .status v { s with cpsrOut := out }).2 := by
  constructor <;> simp

/-- The primitive effects leave the settings and the session alone, answered or refused. -/
theorem closedSameBlock : Closed SameBlock fun _ => SameBlock :=
  .of_ports .refl .trans .trans
    (fun s c _ => ⟨fun _ => sameBlock_note s c, fun _ => sameBlock_note s c⟩)
    (fun s ctx r v _ => ⟨fun _ => sameBlock_portWriteRegister ctx r v s, fun _ => sameBlock_portWriteRegister ctx r v s⟩)
    (fun s ctx a n v => ⟨fun _ => sameBlock_portWriteMemory ctx a n v s, fun _ => sameBlock_portWriteMemory ctx a n v s⟩)
    (fun _ => ⟨rfl, rfl, rfl, rfl, rfl, rfl, rfl⟩)
    (fun s _ _ _ => ⟨fun _ => sameBlock_stagedWrite _ _ s _, fun _ => sameBlock_stagedWrite _ _ s _⟩)
    (fun s set => ⟨fun _ => (sameBlock_stagedWrite (.modeChange set) _ s _).trans ⟨rfl, rfl, rfl, rfl, rfl, rfl, rfl⟩,
      fun _ => sameBlock_stagedWrite _ _ s _⟩)

/-- What holds of the end state of an answer that does `R`, failed or not. -/
theorem Answers.rel {R : State → State → Prop} {s t : State} (h : Answers R (fun _ => R) s (.next t))
    (fault : ∀ u f, R s u → R s { u with fault := f }) : R s t := by
  obtain ⟨u, ⟨e, r⟩ | ⟨f, e, r⟩⟩ := h
  · cases e
    exact fault u none r
  · cases e
    exact fault u (some f) r

/-- Every instruction but IT leaves the settings and the session alone, completed or failed. -/
theorem exec_sameBlock {i : Instr} {s t : State} (hi : ∀ fc m, i ≠ .itT1 fc m) (h : exec i s = .next t) : SameBlock s t := by
  have a := exec_does closedSameBlock (fun _ s _ => SameBlock.refl s) s i hi
  rw [h] at a
  exact a.rel fun u f r => r.trans ⟨rfl, rfl, rfl, rfl, rfl, rfl, rfl⟩

/-- IT starts a session (41_condition_it.md rule R180) or fails, and does nothing else. -/
theorem execItT1_cases {fc m : BitVec 4} {s t : State} (h : exec (.itT1 fc m) s = .next t) :
    (∃ x, initIT (fc ++ m) = some x ∧ t = { s with it := x, fault := none }) ∨ ∃ f, t = State.raise f s := by
  have e : exec (.itT1 fc m) s = execItT1 fc m s := rfl
  rw [e, execItT1] at h
  cases hm : m == 0 with
  | true =>
    rw [hm, runHandler_error (notInSubsetIf_stop rfl)] at h
    cases h
    exact .inr ⟨_, rfl⟩
  | false =>
    cases hb : s.inITBlock with
    | true =>
      rw [hm, runHandler_error ((notInSubsetIf_pass rfl).trans (unpredictableInIT_stop hb))] at h
      cases h
      exact .inr ⟨_, rfl⟩
    | false =>
      simp only [hm, runHandler, notInSubsetIf_pass, unpredictableInIT_pass hb] at h
      cases hx : initIT (fc ++ m) with
      | none =>
        rw [hx] at h
        cases h
        exact .inr ⟨_, rfl⟩
      | some x =>
        rw [hx] at h
        cases h
        exact .inl ⟨x, rfl, rfl⟩

/-- What an instruction does to the settings and the session (10_state.md rules R22, R24, R27): nothing, but for the session an
IT that completes starts. -/
theorem exec_block {i : Instr} {s t : State} (h : exec i s = .next t) :
    SameBlock s t ∨ ∃ fc m x, i = .itT1 fc m ∧ initIT (fc ++ m) = some x ∧ t = { s with it := x, fault := none } := by
  by_cases hi : ∃ fc m, i = .itT1 fc m
  · obtain ⟨fc, m, rfl⟩ := hi
    obtain ⟨x, hx, rfl⟩ | ⟨f, rfl⟩ := execItT1_cases h
    · exact .inr ⟨fc, m, x, rfl, hx, rfl⟩
    · exact .inl ⟨rfl, rfl, rfl, rfl, rfl, rfl, rfl⟩
  · exact .inl (exec_sameBlock (fun fc m e => hi ⟨fc, m, e⟩) h)

/-- An instruction that fails leaves the settings and the session alone (41_condition_it.md rule R178). -/
theorem exec_sameBlock_of_fault {i : Instr} {s t : State} (h : exec i s = .next t) (hf : t.fault ≠ none) : SameBlock s t := by
  obtain b | ⟨fc, m, x, rfl, hx, rfl⟩ := exec_block h
  · exact b
  · exact absurd rfl hf

/-- An instruction, IT too, ends with the settings it started with; only the session may differ. -/
theorem exec_settings {i : Instr} {s t : State} (h : exec i s = .next t) : SameBlock { s with it := t.it } t := by
  obtain b | ⟨fc, m, x, rfl, hx, rfl⟩ := exec_block h
  · exact ⟨b.params, b.arch, rfl, b.inst, b.refusals, b.script, b.stopped⟩
  · exact ⟨rfl, rfl, rfl, rfl, rfl, rfl, rfl⟩

/-! ## Memory in canonical form -/

/-- Memory stays in canonical form (10_state.md rule R36). -/
def KeepsMemory (s t : State) : Prop := Memory.wf s.mem → Memory.wf t.mem

theorem KeepsMemory.of_eq {s t : State} (h : t.mem = s.mem) : KeepsMemory s t := fun w => h ▸ w

theorem keepsMemory_portWriteMemory (ctx : Context) (a : Word) (n : Nat) (v : DWord) (s : State) :
    KeepsMemory s (portWriteMemory ctx a n v s).2 := fun w => by
  rw [portWriteMemory_mem]
  split
  · exact Memory.wf_writeLE n a v w
  · exact w

/-- The primitive effects keep memory in canonical form. -/
theorem closedKeepsMemory : Closed KeepsMemory fun _ => KeepsMemory :=
  .of_ports (fun _ w => w) (fun h k w => k (h w)) (fun h k w => k (h w))
    (fun _ _ _ => ⟨fun _ w => w, fun _ w => w⟩)
    (fun s ctx r v _ => ⟨fun _ => .of_eq (portWriteRegister_mem ctx r v s),
      fun _ => .of_eq (portWriteRegister_mem ctx r v s)⟩)
    (fun s ctx a n v => ⟨fun _ => keepsMemory_portWriteMemory ctx a n v s, fun _ => keepsMemory_portWriteMemory ctx a n v s⟩)
    (fun _ w => w)
    (fun _ _ _ _ => ⟨fun _ => .of_eq (portWriteRegister_mem ..), fun _ => .of_eq (portWriteRegister_mem ..)⟩)
    (fun _ set => ⟨fun _ => .of_eq (portWriteRegister_mem (.modeChange set) ..), fun _ => .of_eq (portWriteRegister_mem ..)⟩)

/-- Every instruction keeps memory in canonical form, completed or failed. -/
theorem exec_keepsMemory {i : Instr} {s t : State} (h : exec i s = .next t) : KeepsMemory s t := by
  have a := exec_does_all closedKeepsMemory (fun _ _ _ w => w) (fun _ _ _ _ w => w) s i
  rw [h] at a
  exact a.rel fun _ _ r => r

/-! ## The IT session -/

theorem three_lt_trailingZeros_iff (m : BitVec 4) : 3 < trailingZeros m ↔ m = 0 := by
  revert m; decide

theorem trailingZeros_shiftLeft_one (m : BitVec 4) (h : trailingZeros m < 3) :
    trailingZeros (m <<< 1) = trailingZeros m + 1 := by
  revert m; decide

/-- A session with instructions left and their number as its mask says is well formed: its mask is not empty. -/
theorem ITSession.wf_of_remaining {x : ITSession} (h0 : 0 < x.remaining)
    (h : x.remaining = 4 - trailingZeros (x.state.extractLsb' 0 4)) : ITSession.wf x := by
  refine ⟨⟨fun e => absurd e h0.ne', fun e => ?_⟩, fun _ => h⟩
  have hz : 3 < trailingZeros (x.state.extractLsb' 0 4) := (three_lt_trailingZeros_iff _).2 (by rw [e]; rfl)
  omega

/-- The session that IT starts is well formed (41_condition_it.md rule R171). -/
theorem initIT_wf {byte : BitVec 8} {x : ITSession} (h : initIT byte = some x) : ITSession.wf x := by
  unfold initIT at h
  simp only [] at h
  split at h
  · cases h
  · split at h
    · cases h
    · split at h
      · cases h
      · cases h
        exact ITSession.wf_of_remaining (by show 0 < 4 - _; omega) rfl

/-- The mask of a session that goes on is shifted by one (R173). -/
theorem itAdvance_mask (state : BitVec 8) :
    (state &&& 0xe0 ||| state <<< 1 &&& 0x1f).extractLsb' 0 4 = state.extractLsb' 0 4 <<< 1 := by
  revert state; decide

/-- The next session is well formed (R173). -/
theorem itAdvance_wf {x : ITSession} (h : ITSession.wf x) : ITSession.wf (itAdvance x) := by
  unfold itAdvance
  simp only []
  split
  · exact ⟨⟨fun _ => rfl, fun _ => rfl⟩, fun h0 => absurd h0 (Nat.lt_irrefl 0)⟩
  · rename_i hr
    have hx := h.2 (by omega)
    refine ITSession.wf_of_remaining (Nat.pos_of_ne_zero hr) ?_
    show x.remaining - 1 = _
    rw [itAdvance_mask, trailingZeros_shiftLeft_one _ (by omega)]
    omega

/-! ## readInstruction -/

/-- Only the trace changed. -/
abbrev OnlyTraced (s t : State) : Prop := t = { s with trace := t.trace }

/-- Besides the trace only the latch changed, and it holds an instruction of this set, fetched under this status value. -/
def Latched (set : InstrSet) (cpsr : Word) (s t : State) : Prop :=
  t = { s with inst := t.inst, trace := t.trace } ∧
    t.inst.valid = true ∧ t.inst.mode = set ∧ t.inst.cpsr = cpsr ∧ Latch.wf t.inst

theorem OnlyTraced.trans {s t u : State} (h : OnlyTraced s t) (k : OnlyTraced t u) : OnlyTraced s u := by
  rw [OnlyTraced, k, h]

theorem OnlyTraced.latched {set : InstrSet} {cpsr : Word} {s t u : State} (h : OnlyTraced s t) (k : Latched set cpsr t u) :
    Latched set cpsr s u := by
  obtain ⟨e, k⟩ := k
  refine ⟨?_, k⟩
  rw [e, h]

/-- A handler that raises a failure does what its `E` says of the state it leaves. -/
theorem does_of_error {α : Type} {R : State → State → Prop} {E : Failure → State → State → Prop}
    {r : EStateM.Result Failure State α} {f : Failure} {s t : State} (e : r = .error f t) (h : E f s t) :
    (∀ a u, r = .ok a u → R s u) ∧ ∀ g u, r = .error g u → E g s u := by
  subst e
  exact ⟨fun _ _ hu => (by cases hu), fun _ _ hu => (by cases hu; exact h)⟩

theorem memRead_onlyTraced (ctx : Context) (a : Word) (n : Nat) :
    Does OnlyTraced (fun _ => OnlyTraced) (memRead ctx a n) :=
  does_read fun _ => ⟨fun _ => rfl, fun _ => rfl⟩

/-- A memory read before a handler that latches an instruction. -/
theorem memRead_then_latched {set : InstrSet} {cpsr : Word} {k : DWord → Handler Unit} (ctx : Context) (a : Word) (n : Nat)
    (hk : ∀ v, Does (Latched set cpsr) (fun _ => OnlyTraced) (k v)) :
    Does (Latched set cpsr) (fun _ => OnlyTraced) (memRead ctx a n >>= k) := fun s => by
  obtain ⟨hok, herr⟩ := memRead_onlyTraced ctx a n s
  simp only [handler_bind]
  cases e : memRead ctx a n s with
  | ok v t =>
    have r := hok v t e
    exact ⟨fun b u hu => r.latched ((hk v t).1 b u hu), fun f u hu => r.trans ((hk v t).2 f u hu)⟩
  | error f t => exact does_of_error rfl (herr f t e)

theorem latchInstruction_latched {x : Latch} {cpsr : Word} (hv : x.valid = true) (hc : x.cpsr = cpsr) (hw : Latch.wf x) :
    Does (Latched x.mode cpsr) (fun _ => OnlyTraced) (latchInstruction x) := fun s =>
  ⟨fun _ _ h => (by cases h; exact ⟨rfl, hv, rfl, hc, hw⟩), fun _ _ h => (by cases h)⟩

/-- A failed alignment test: what would follow it does not run. -/
theorem throw_latched {set : InstrSet} {cpsr : Word} (f : Failure) (k : PUnit → Handler Unit) :
    Does (Latched set cpsr) (fun _ => OnlyTraced) (throw f >>= k) := fun _ =>
  does_of_error rfl rfl

theorem fetchArm_latched (pc : Word) {cpsr : Word} (ht : flagT cpsr = false) :
    Does (Latched .arm cpsr) (fun _ => OnlyTraced) (fetchArm pc cpsr) := by
  unfold fetchArm
  split
  · exact throw_latched _ _
  · rename_i ha
    exact memRead_then_latched _ _ _ fun _ =>
      latchInstruction_latched rfl rfl fun _ => ⟨fun _ => ⟨rfl, by simpa using ha⟩, nofun, nofun, by simp [ht]⟩

theorem fetchThumb_latched (pc : Word) {cpsr : Word} (ht : flagT cpsr = true) :
    Does (Latched .thumb cpsr) (fun _ => OnlyTraced) (fetchThumb pc cpsr) := by
  unfold fetchThumb
  split
  · exact throw_latched _ _
  · rename_i ha
    refine memRead_then_latched _ _ _ fun h1 => ?_
    split
    · exact memRead_then_latched _ _ _ fun _ =>
        latchInstruction_latched rfl rfl fun _ => ⟨nofun, fun _ => by simpa using ha, nofun, by simp [ht]⟩
    · refine latchInstruction_latched rfl rfl fun _ => ⟨nofun, fun _ => by simpa using ha, fun _ => ?_, by simp [ht]⟩
      ext i hi
      simp

theorem readRegister_cases (r : PortReg) (s : State) :
    (∃ c, callRead (portReadRegister r) s = .ok (s.regValue r) (s.note c)) ∨
      ∃ c, callRead (portReadRegister r) s = .error .accessFailure (s.note c) := by
  cases h : s.refuses (.readReg r)
  · exact .inl ⟨.readRegister r 0 (s.regValue r) true, by simp [callRead, portReadRegister, h]⟩
  · exact .inr ⟨.readRegister r 0 0 false, by simp [callRead, portReadRegister, h]⟩

/-- What `readInstruction` leaves alone (49_svc_driver.md rule R383): everything but `MODE`, the latch, `FAULT` and the trace. -/
abbrev ReadFrame (s t : State) : Prop := t = { s with mode := t.mode, inst := t.inst, fault := t.fault, trace := t.trace }

/-- An instruction was fetched: `MODE`, bit T of the status value latched and the latch's set agree. -/
structure Fetched (s t : State) : Prop where
  frame : ReadFrame s t
  valid : t.inst.valid = true
  mode : t.mode = modeOf t.inst.mode
  cpsr : t.inst.cpsr = s.status
  latch : Latch.wf t.inst

theorem OnlyTraced.readFrame {s t : State} {m : Mode} {x : Latch} {c : List PortCall}
    (h : OnlyTraced { s with mode := m, inst := x, trace := c } t) : ReadFrame s t := by
  rw [ReadFrame, h]

theorem Latched.fetched {set : InstrSet} {s t : State} {x : Latch} {c : List PortCall}
    (h : Latched set s.status { s with mode := modeOf set, inst := x, trace := c } t) : Fetched s t := by
  obtain ⟨e, hv, hm, hc, hw⟩ := h
  refine ⟨?_, hv, ?_, hc, hw⟩
  · rw [ReadFrame, e]
  · rw [hm, e]

/-- The body of `readInstruction` (49_svc_driver.md rule R383): status register, PC, then the fetch of the set that bit T of the
status value names. -/
theorem fetch_does : Does Fetched (fun _ => ReadFrame) fetch := fun s => by
  unfold fetch
  simp only [handler_bind, handler_modify]
  obtain ⟨c1, e1⟩ | ⟨c1, e1⟩ := readRegister_cases .status s.dropLatch <;> simp only [e1]
  · obtain ⟨c2, e2⟩ | ⟨c2, e2⟩ := readRegister_cases (.core 15) (s.dropLatch.note c1) <;> simp only [e2]
    · have hc : (s.dropLatch.regValue .status).setWidth 32 = s.status := BitVec.setWidth_setWidth_of_le _ (by decide)
      rw [hc]
      split
      · rename_i ht
        obtain ⟨hok, herr⟩ := fetchThumb_latched _ ht { (s.dropLatch.note c1).note c2 with mode := .thumb }
        exact ⟨fun a t h => (hok a t h).fetched, fun f t h => (herr f t h).readFrame⟩
      · rename_i ht
        obtain ⟨hok, herr⟩ := fetchArm_latched _ (Bool.eq_false_iff.2 ht) { (s.dropLatch.note c1).note c2 with mode := .arm }
        exact ⟨fun a t h => (hok a t h).fetched, fun f t h => (herr f t h).readFrame⟩
    · exact does_of_error rfl rfl
  · exact does_of_error rfl rfl

/-- How `readInstruction` ends (R383). -/
theorem readInstruction_cases (s : State) :
    (Fetched s (readInstruction s) ∧ (readInstruction s).fault = none) ∨
      ReadFrame s (readInstruction s) ∧ (readInstruction s).inst.valid = false ∧ (readInstruction s).fault ≠ none := by
  obtain ⟨hok, herr⟩ := fetch_does s
  unfold readInstruction
  split
  · rename_i t e
    obtain ⟨hf, hv, hm, hc, hw⟩ := hok _ t e
    exact .inl ⟨⟨by rw [hf]; rfl, hv, hm, hc, hw⟩, rfl⟩
  · rename_i f t e
    have hf := herr f t e
    exact .inr ⟨by rw [hf]; rfl, rfl, nofun⟩

theorem ReadFrame.arch {s t : State} (h : ReadFrame s t) : t.arch = s.arch := by rw [h]
theorem ReadFrame.params {s t : State} (h : ReadFrame s t) : t.params = s.params := by rw [h]
theorem ReadFrame.it {s t : State} (h : ReadFrame s t) : t.it = s.it := by rw [h]
theorem ReadFrame.mem {s t : State} (h : ReadFrame s t) : t.mem = s.mem := by rw [h]
theorem ReadFrame.status {s t : State} (h : ReadFrame s t) : t.status = s.status := by rw [h]

/-! ## evaluateInstruction and one turn of the run loop -/

/-- The PC advance does what the primitive effects do (49_svc_driver.md rule R389). -/
theorem Closed.advancePC {R : State → State → Prop} {E : Failure → State → State → Prop} (c : Closed R E) :
    Does R E advancePC :=
  c.bind c.get fun _ => c.ite _ (c.writeReg _ _ _) (c.pure _)

/-- Stages ConditionCheck and Execute came to a normal end (R386, R387). -/
def Executed (s u : State) : Prop := u = s.succeed ∨ ∃ i, exec i s = .next u ∧ u.fault = none

/-- How a command ends after its stage Execute (R389, R390). -/
theorem retire_cases {start : ITSession} {wasInIT : Bool} {s t : State} (h : retire start wasInIT s = .next t) :
    (∃ u, advancePC s = .ok () u ∧ t = (u.advanceIT wasInIT).succeed) ∨
      ∃ f u, advancePC s = .error f u ∧ t = State.raise f { u with it := start } := by
  unfold retire at h
  split at h
  · rename_i u e
    cases h
    exact .inl ⟨u, e, rfl⟩
  · rename_i f u e
    cases h
    exact .inr ⟨f, u, e, rfl⟩

theorem executeStage_cases {i : Instr} {s t : State} (h : executeStage i s = .next t) : t = s.succeed ∨ exec i s = .next t := by
  unfold executeStage at h
  split at h
  · exact .inr h
  · cases h
    exact .inl rfl

/-- What `evaluateInstruction` can do (R384, R391): no valid latch; no row; a handler that fails; the end of the command. -/
theorem evaluateInstruction_cases {s t : State} (h : evaluateInstruction s = .next t) :
    (s.inst.valid = false ∧ t = s.raise .noInstruction) ∨
    t = s.beginEvaluate.raise .unsupportedEncoding ∨
    (∃ i, exec i s.beginEvaluate = .next t ∧ t.fault ≠ none) ∨
    ∃ u, Executed s.beginEvaluate u ∧ retire s.it s.beginEvaluate.inITBlock u = .next t := by
  unfold evaluateInstruction at h
  split at h
  · split at h
    · rename_i i _
      unfold evaluateDecoded at h
      split at h
      · rename_i u e
        have hu := executeStage_cases e
        split at h
        · rename_i hf
          exact .inr (.inr (.inr ⟨u, hu.imp_right fun k => ⟨i, k, hf⟩, h⟩))
        · rename_i hf
          cases h
          obtain rfl | k := hu
          · exact absurd rfl hf
          · exact .inr (.inr (.inl ⟨i, k, hf⟩))
      · cases h
      · cases h
    · cases h
      exact .inr (.inl rfl)
  · rename_i hv
    cases h
    exact .inl ⟨by simpa using hv, rfl⟩

/-- One turn of the run loop (R393): a failed `readInstruction`, or a fetched instruction evaluated. -/
theorem hostStep_cases {s t : State} (h : hostStep s = .next t) :
    (∃ r, ReadFrame s r ∧ r.inst.valid = false ∧ r.fault ≠ none ∧ t = r.stopIfFailed) ∨
    ∃ r u, Fetched s r ∧ evaluateInstruction r = .next u ∧ t = u.stopIfFailed := by
  unfold hostStep at h
  simp only [] at h
  obtain ⟨hr, hf⟩ | ⟨hr, hv, hf⟩ := readInstruction_cases s
  · rw [if_pos hf] at h
    split at h
    · rename_i u e
      cases h
      exact .inr ⟨_, u, hr, e, rfl⟩
    · cases h
    · cases h
  · rw [if_neg hf] at h
    cases h
    exact .inl ⟨_, hr, hv, hf, rfl⟩

/-- A step is the host's next action, or, with none left, a turn of the run loop (R393). -/
theorem step_cases {s t : State} (h : step s = .next t) :
    (∃ a rest, s.script = a :: rest ∧ hostAct { s with script := rest, stopped := false } a = .next t) ∨
      (s.script = [] ∧ hostStep s = .next t) := by
  unfold step machineStep at h
  split at h
  · rename_i a rest hs
    exact .inl ⟨a, rest, hs, h⟩
  · rename_i hs
    split at h
    · cases h
    · split at h
      · cases h
      · exact .inr ⟨hs, h⟩

theorem step_turn {s t : State} (hs : s.script = []) (h : step s = .next t) : hostStep s = .next t := by
  obtain ⟨a, rest, e, -⟩ | ⟨-, h⟩ := step_cases h
  · rw [hs] at e
    cases e
  · exact h

/-! ## The settings and the session after a failure -/

theorem Executed.settings {s u : State} (h : Executed s u) : SameBlock { s with it := u.it } u := by
  obtain rfl | ⟨i, h, -⟩ := h
  · exact ⟨rfl, rfl, rfl, rfl, rfl, rfl, rfl⟩
  · exact exec_settings h

/-- What a command that failed leaves: the session, `ARCH` and the parameters as they were, and no valid latch. -/
structure FailedFrame (s t : State) : Prop where
  it : t.it = s.it
  valid : t.inst.valid = false
  arch : t.arch = s.arch
  params : t.params = s.params

/-- An `evaluateInstruction` that fails (41_condition_it.md rule R178 (c), 49_svc_driver.md rule R384). -/
theorem evaluateInstruction_fails {s t : State} (h : evaluateInstruction s = .next t) (hf : t.fault ≠ none) :
    FailedFrame s t := by
  obtain ⟨hv, rfl⟩ | rfl | ⟨i, he, -⟩ | ⟨u, hu, hr⟩ := evaluateInstruction_cases h
  · exact ⟨rfl, hv, rfl, rfl⟩
  · exact ⟨rfl, rfl, rfl, rfl⟩
  · have k := exec_sameBlock_of_fault he hf
    exact ⟨k.it, by rw [k.inst]; rfl, k.arch, k.params⟩
  · have k := hu.settings
    obtain ⟨w, -, rfl⟩ | ⟨f, w, hw, rfl⟩ := retire_cases hr
    · exact absurd rfl hf
    · have a := (closedSameBlock.advancePC u).2 f w hw
      exact ⟨rfl, by rw [State.raise_inst, a.inst, k.inst]; rfl, a.arch.trans k.arch, a.params.trans k.params⟩

/-- A turn of the run loop that fails (R392, R393). -/
theorem hostStep_fails {s t : State} (h : hostStep s = .next t) (hf : t.fault ≠ none) : FailedFrame s t := by
  obtain ⟨r, hr, hv, -, rfl⟩ | ⟨r, u, hr, he, rfl⟩ := hostStep_cases h
  · exact ⟨hr.it, hv, hr.arch, hr.params⟩
  · have k := evaluateInstruction_fails he hf
    exact ⟨k.it.trans hr.frame.it, k.valid, k.arch.trans hr.frame.arch, k.params.trans hr.frame.params⟩

/-! ## The invariant -/

theorem State.Inv.congr {s t : State} (h : s.Inv) (hm : t.mem = s.mem) (hi : t.it = s.it) (hl : t.inst = s.inst) : t.Inv :=
  ⟨hm ▸ h.memory, hi ▸ h.session, hl ▸ h.latch⟩

theorem Latch.wf_of_invalid {x : Latch} (h : x.valid = false) : Latch.wf x := fun k => by
  rw [h] at k
  cases k

theorem ITSession.wf_empty : ITSession.wf { state := 0, remaining := 0 } :=
  ⟨⟨fun _ => rfl, fun _ => rfl⟩, fun h => absurd h (Nat.lt_irrefl 0)⟩

theorem Fetched.inv {s t : State} (h : s.Inv) (k : Fetched s t) : t.Inv :=
  ⟨k.frame.mem ▸ h.memory, k.frame.it ▸ h.session, k.latch⟩

theorem ReadFrame.inv {s t : State} (h : s.Inv) (k : ReadFrame s t) (hv : t.inst.valid = false) : t.Inv :=
  ⟨k.mem ▸ h.memory, k.it ▸ h.session, Latch.wf_of_invalid hv⟩

theorem readInstruction_inv {s : State} (h : s.Inv) : (readInstruction s).Inv := by
  obtain ⟨hr, -⟩ | ⟨hr, hv, -⟩ := readInstruction_cases s
  · exact hr.inv h
  · exact hr.inv h hv

theorem beginEvaluate_inv {s : State} (h : s.Inv) : s.beginEvaluate.Inv := ⟨h.memory, h.session, Latch.wf_of_invalid rfl⟩

theorem exec_inv {i : Instr} {s t : State} (h : s.Inv) (e : exec i s = .next t) : t.Inv := by
  have hm := exec_keepsMemory e h.memory
  obtain b | ⟨fc, m, x, rfl, hx, rfl⟩ := exec_block e
  · exact ⟨hm, b.it ▸ h.session, b.inst ▸ h.latch⟩
  · exact ⟨hm, initIT_wf hx, h.latch⟩

theorem Executed.inv {s u : State} (h : s.Inv) (k : Executed s u) : u.Inv := by
  obtain rfl | ⟨i, k, -⟩ := k
  · exact h.congr rfl rfl rfl
  · exact exec_inv h k

theorem advanceIT_inv {s : State} (h : s.Inv) (b : Bool) : (s.advanceIT b).Inv := by
  cases b
  · exact h
  · exact ⟨h.memory, itAdvance_wf h.session, h.latch⟩

theorem retire_inv {start : ITSession} {b : Bool} {s t : State} (h : s.Inv) (hs : ITSession.wf start)
    (e : retire start b s = .next t) : t.Inv := by
  have hb := closedSameBlock.advancePC s
  have hm := closedKeepsMemory.advancePC s
  obtain ⟨u, hu, rfl⟩ | ⟨f, u, hu, rfl⟩ := retire_cases e
  · have k := hb.1 _ _ hu
    have hi : u.Inv := ⟨hm.1 _ _ hu h.memory, k.it ▸ h.session, k.inst ▸ h.latch⟩
    exact (advanceIT_inv hi b).congr rfl rfl rfl
  · have hm' : Memory.wf u.mem := hm.2 f u hu h.memory
    exact ⟨hm', hs, (hb.2 _ _ hu).inst ▸ h.latch⟩

theorem evaluateInstruction_inv {s t : State} (h : s.Inv) (e : evaluateInstruction s = .next t) : t.Inv := by
  have hb := beginEvaluate_inv h
  obtain ⟨-, rfl⟩ | rfl | ⟨i, he, -⟩ | ⟨u, hu, hr⟩ := evaluateInstruction_cases e
  · exact h.congr rfl rfl rfl
  · exact hb.congr rfl rfl rfl
  · exact exec_inv hb he
  · exact retire_inv (hu.inv hb) h.session hr

theorem hostStep_inv {s t : State} (h : s.Inv) (e : hostStep s = .next t) : t.Inv := by
  obtain ⟨r, hr, hv, -, rfl⟩ | ⟨r, u, hr, he, rfl⟩ := hostStep_cases e
  · exact (hr.inv h hv).congr rfl rfl rfl
  · exact (evaluateInstruction_inv (hr.inv h) he).congr rfl rfl rfl

theorem setArchitecture_inv {s : State} (h : s.Inv) (name : List Char) : (setArchitecture name s).Inv := by
  unfold setArchitecture
  split
  · exact h.congr rfl rfl rfl
  · exact h.congr rfl rfl rfl

/-- Every action of the host keeps the invariant (49_svc_driver.md rules R382, R392). -/
theorem hostAct_inv {s t : State} (h : s.Inv) {a : HostAction} (e : hostAct s a = .next t) : t.Inv := by
  cases a with
  | setArchitecture name => cases e; exact setArchitecture_inv h name
  | readInstruction => cases e; exact readInstruction_inv h
  | evaluateInstruction => exact evaluateInstruction_inv h e
  | newInstance p => cases e; exact ⟨h.memory, ITSession.wf_empty, Latch.wf_of_invalid rfl⟩
  | setCore n v => cases e; exact h.congr rfl rfl rfl
  | setStatus v => cases e; exact h.congr rfl rfl rfl
  | setExt n v => cases e; exact h.congr rfl rfl rfl
  | setByte a b =>
    cases b with
    | none => cases e; exact ⟨Memory.wf_erase _ h.memory, h.session, h.latch⟩
    | some b => cases e; exact ⟨Memory.wf_write b a.isLt h.memory, h.session, h.latch⟩
  | setRefusals ts => cases e; exact h.congr rfl rfl rfl

/-! ## `MODE` and bit T -/

theorem flagT_setBit (w : Word) (b : Bool) : flagT (setBit w 5 b) = b := by
  rw [flagT, getLsbD_setBit _ _ _ _ (by decide) (by decide), if_pos rfl]

theorem flagT_packFlags (w r : Word) (c v : Option Bool) : flagT (packFlags w r c v) = flagT w := by
  obtain ⟨-, -, -, -, hk⟩ := packFlags_bits w r c v
  exact hk 5 (by decide)

theorem ModeMatches.congr {s t : State} (h : ModeMatches s) (hm : t.mode = s.mode) (hs : t.status = s.status)
    (hc : t.cpsrOut = s.cpsrOut) : ModeMatches t := by
  rw [ModeMatches, hm, hs, hc]
  exact h

/-- The status register and the staged value hold one word whose bit T names `MODE`. -/
theorem modeMatches_of_set {t : State} {set : InstrSet} {w : Word} (hm : t.mode = modeOf set) (hs : t.status = w)
    (hc : t.cpsrOut = w) (ht : flagT w = true ↔ set = .thumb) : ModeMatches t := by
  rw [ModeMatches, hm, hs, hc, ht]
  cases set <;> decide

theorem portWriteRegister_status_word {ctx : Context} {w : Word} {s : State}
    (h : (portWriteRegister ctx .status (w.setWidth 64) s).1 = true) :
    (portWriteRegister ctx .status (w.setWidth 64) s).2.status = w := by
  rw [portWriteRegister_status_ok h]
  exact BitVec.setWidth_setWidth_of_le _ (by decide)

/-- An answered status write of a staged value whose bit T names `MODE`. -/
theorem stagedWrite_modeMatches {ctx : Context} {w : Word} {s : State} (hm : s.mode ≠ .invalid)
    (ht : flagT w = true ↔ s.mode = .thumb)
    (ok : (portWriteRegister ctx .status (w.setWidth 64) { s with cpsrOut := w }).1 = true) :
    ModeMatches (portWriteRegister ctx .status (w.setWidth 64) { s with cpsrOut := w }).2 := by
  rw [ModeMatches, portWriteRegister_status_word ok, portWriteRegister_mode, portWriteRegister_cpsrOut]
  exact ⟨hm, ht, ht⟩

/-- The primitive effects that are answered keep `MODE` and bit T together: a flag write keeps bit T, and `SelectInstrSet` sets
both (46_branch.md rule R304). -/
theorem closedModeMatches : Closed (fun s t => ModeMatches s → ModeMatches t) fun _ _ _ => True :=
  .of_ports (fun _ h => h) (fun h k m => k (h m)) (fun _ _ => trivial)
    (fun _ _ _ => ⟨fun _ h => h, fun _ => trivial⟩)
    (fun s ctx _ v hr => ⟨fun _ h => h.congr (by simp) (portWriteRegister_status_other ctx v s hr) (by simp),
      fun _ => trivial⟩)
    (fun s ctx a n v => ⟨fun _ h => h.congr (by simp) (by simp) (by simp), fun _ => trivial⟩)
    (fun _ h => h)
    (fun _ r c v => ⟨fun ok ⟨hm, _, hc⟩ => stagedWrite_modeMatches hm ((flagT_packFlags _ r c v).symm ▸ hc) ok,
      fun _ => trivial⟩)
    (fun _ set => ⟨fun ok _ => modeMatches_of_set rfl (portWriteRegister_status_word ok)
      (portWriteRegister_cpsrOut (.modeChange set) ..) (by rw [flagT_setBit, beq_iff_eq]), fun _ => trivial⟩)

theorem exec_modeMatches {i : Instr} {s t : State} (h : ModeMatches s) (e : exec i s = .next t) (hf : t.fault = none) :
    ModeMatches t := by
  have a := exec_does_all closedModeMatches (fun _ _ _ => trivial) (fun _ _ _ _ m => m) s i
  rw [e] at a
  obtain ⟨u, ⟨e, r⟩ | ⟨f, e, -⟩⟩ := a
  · cases e
    exact r h
  · cases e
    cases hf

/-- The handler of a fetched instruction starts with `MODE`, the status register and the staged value in agreement
(49_svc_driver.md rules R383, R384). -/
theorem Fetched.modeMatches {s r : State} (h : Fetched s r) : ModeMatches r.beginEvaluate := by
  obtain ⟨-, -, -, ht⟩ := h.latch h.valid
  exact modeMatches_of_set h.mode h.frame.status h.cpsr (h.cpsr ▸ ht)

theorem Executed.modeMatches {s u : State} (h : ModeMatches s) (k : Executed s u) : ModeMatches u := by
  obtain rfl | ⟨i, k, hf⟩ := k
  · exact h
  · exact exec_modeMatches h k hf

theorem retire_modeMatches {start : ITSession} {b : Bool} {s t : State} (h : ModeMatches s) (e : retire start b s = .next t)
    (hf : t.fault = none) : ModeMatches t := by
  obtain ⟨u, hu, rfl⟩ | ⟨f, u, -, rfl⟩ := retire_cases e
  · have k : ModeMatches u := (closedModeMatches.advancePC s).1 _ _ hu h
    cases b <;> exact k
  · cases hf

/-- A fetched instruction that is evaluated to the end leaves `MODE` and bit T in agreement. -/
theorem evaluateInstruction_modeMatches {s r t : State} (h : Fetched s r) (e : evaluateInstruction r = .next t)
    (hf : t.fault = none) : ModeMatches t := by
  obtain ⟨-, rfl⟩ | rfl | ⟨i, -, k⟩ | ⟨u, hu, hr⟩ := evaluateInstruction_cases e
  · cases hf
  · cases hf
  · exact absurd hf k
  · exact retire_modeMatches (hu.modeMatches h.modeMatches) hr hf

/-! ## Memory as bytes -/

theorem Memory.read?_eq_none {m : Memory} {a : Nat} (h : ∀ c ∈ m, a < c.1) : Memory.read? m a = none := by
  induction m with
  | nil => rfl
  | cons c rest ih =>
    obtain ⟨k, b⟩ := c
    obtain ⟨hk, hrest⟩ := List.forall_mem_cons.1 h
    rw [Memory.read?, if_neg hk.ne', ih hrest]

/-- The lowest listed address of a memory is mapped and every address below it is not. -/
theorem Memory.read?_cons {k x : Nat} {b : Byte} {m : Memory} (h : ∀ c ∈ m, k < c.1) (hx : x ≤ k) :
    Memory.read? ((k, b) :: m) x = if x = k then some b else none := by
  rw [Memory.read?]
  split
  · rename_i e
    rw [if_pos e.symm]
  · rename_i e
    rw [if_neg (Ne.symm e), Memory.read?_eq_none fun c hc => Nat.lt_of_le_of_lt hx (h c hc)]

/-- Two memories that read the same begin with the same cell: the one whose first address is not above the other's maps it. -/
theorem Memory.head_eq {k k' : Nat} {b b' : Byte} {m m' : Memory} (hk : ∀ c ∈ m, k < c.1) (hk' : ∀ c ∈ m', k' < c.1)
    (hle : k ≤ k') (e : Memory.read? ((k, b) :: m) k = Memory.read? ((k', b') :: m') k) : k = k' ∧ b = b' := by
  rw [Memory.read?_cons hk (Nat.le_refl k), if_pos rfl, Memory.read?_cons hk' hle] at e
  split at e
  · rename_i h
    exact ⟨h, Option.some.inj e⟩
  · cases e

/-- The canonical form is canonical: memories with strictly rising addresses that read the same are the same data (10_state.md
rule R36). -/
theorem Memory.eq_of_read?_eq {m m' : Memory} (h : m.Pairwise fun x y => x.1 < y.1) (h' : m'.Pairwise fun x y => x.1 < y.1)
    (e : ∀ x, Memory.read? m x = Memory.read? m' x) : m = m' := by
  induction m generalizing m' with
  | nil =>
    cases m' with
    | nil => rfl
    | cons c' rest' => simpa [Memory.read?] using e c'.1
  | cons c rest ih =>
    obtain ⟨k, b⟩ := c
    cases m' with
    | nil => simpa [Memory.read?] using e k
    | cons c' rest' =>
      obtain ⟨k', b'⟩ := c'
      obtain ⟨hk, hr⟩ := List.pairwise_cons.1 h
      obtain ⟨hk', hr'⟩ := List.pairwise_cons.1 h'
      have head : k = k' ∧ b = b' := by
        obtain hle | hle := Nat.le_total k k'
        · exact Memory.head_eq hk hk' hle (e k)
        · obtain ⟨hk, hb⟩ := Memory.head_eq hk' hk hle (e k').symm
          exact ⟨hk.symm, hb.symm⟩
      obtain ⟨rfl, rfl⟩ := head
      have tail : ∀ x, Memory.read? rest x = Memory.read? rest' x := fun x => by
        by_cases hx : x ≤ k
        · rw [Memory.read?_eq_none fun c hc => Nat.lt_of_le_of_lt hx (hk c hc),
            Memory.read?_eq_none fun c hc => Nat.lt_of_le_of_lt hx (hk' c hc)]
        · have ex := e x
          have hne : k ≠ x := by omega
          rwa [Memory.read?, Memory.read?, if_neg hne, if_neg hne] at ex
      rw [ih hr hr' tail]

/-! ## The statements -/

/-- Settles O40: a step is an action of the host or a turn of the run loop, and each keeps the invariant. -/
theorem invariantKept : Obligations.InvariantKept := by
  intro s t h e
  obtain ⟨a, rest, -, e⟩ | ⟨-, e⟩ := step_cases e
  · exact hostAct_inv (s := { s with script := rest, stopped := false }) (h.congr rfl rfl rfl) e
  · exact hostStep_inv h e

/-- Settles O38: what one port call leaves alone every instruction does; a failure leaves the session by the case split of
`evaluateInstruction`. -/
theorem settingsKept : Obligations.SettingsKept := by
  refine ⟨fun i s t h => ?_, fun s t h hf => ?_, fun s t hs h hf => ?_⟩
  · have k := exec_settings h
    exact ⟨k.params, k.arch, k.inst, k.refusals, k.script, k.stopped, fun hi => (exec_sameBlock hi h).it⟩
  · have k := evaluateInstruction_fails h hf
    exact ⟨k.it, k.valid, k.arch, k.params⟩
  · have k := hostStep_fails (step_turn hs h) hf
    exact ⟨k.it, k.valid, k.arch, k.params⟩

/-- Settles O39: every answered port call keeps the agreement, and a fetch makes it. -/
theorem modeFollowsTheStatusRegister : Obligations.ModeFollowsTheStatusRegister := by
  refine ⟨fun i s t => exec_modeMatches, fun s t hs e hf => ?_⟩
  obtain ⟨r, -, -, k, rfl⟩ | ⟨r, u, hr, he, rfl⟩ := hostStep_cases (step_turn hs e)
  · exact absurd hf k
  · obtain ⟨hm, hst, -⟩ := evaluateInstruction_modeMatches hr he hf
    exact ⟨hm, hst⟩

/-- Settles O59: the laws of the little-endian write, byte by byte, and the uniqueness of the canonical form. -/
theorem memoryBytes : Obligations.MemoryBytes := by
  intro m a v n hn hm
  have hw := Memory.wf_writeLE n a v hm
  refine ⟨hw, Memory.readLE_writeLE m a v hn, fun k hk => ?_, Memory.read?_writeLE_other n m a v, fun m' hm' e => ?_⟩
  · rw [Memory.read?_writeLE_byte n m a v k hk (by omega)]
    exact congrArg some (BitVec.eq_of_getLsbD_eq fun i hi => by simp [hi])
  · exact Memory.eq_of_read?_eq hm'.1 hw.1 e

end Sys2Proof.Machine
end

section
/-! Proofs of the statements about the port calls of an instruction (20_memory.md rules R61, R75, R78): which calls it makes, which
of them was answered, and the writes of five ARM forms with their tags. -/

namespace Sys2Proof.Machine

/-! ## The port calls between two states -/

/-- From `s` to `t` these port calls were made, newest first, and `PC_WRITTEN` records those that write core register 15
(10_state.md rule R28). -/
structure Traced (calls : List PortCall) (s t : State) : Prop where
  trace : t.trace = calls ++ s.trace
  pcWritten : t.pcWritten = (s.pcWritten || calls.any PortCall.writesPC)

/-- From `s` to `t` every port call was answered ok. -/
def Answered (s t : State) : Prop := ∃ calls, Traced calls s t ∧ ∀ c ∈ calls, c.ok = true

/-- A failure from `s` to `t`: after answered calls alone it is `AccessFailure` with one refused call, or another class with no
further call (20_memory.md rule R61, 60_exceptions.md rule R403). -/
def FailsAfterAnswered (f : Failure) (s t : State) : Prop :=
  ∃ u, Answered s u ∧ ((f ≠ .accessFailure ∧ t = u) ∨ (f = .accessFailure ∧ ∃ c, Traced [c] u t ∧ c.ok = false))

theorem Traced.nil {s t : State} (ht : t.trace = s.trace) (hp : t.pcWritten = s.pcWritten) : Traced [] s t :=
  ⟨ht, by simp [hp]⟩

theorem Traced.trans {cs ds : List PortCall} {s t u : State} (h : Traced cs s t) (k : Traced ds t u) : Traced (ds ++ cs) s u :=
  ⟨by rw [k.trace, h.trace, List.append_assoc],
    by rw [k.pcWritten, h.pcWritten, List.any_append, Bool.or_assoc, Bool.or_comm (cs.any _)]⟩

theorem PortCall.writesPC_of_read {c : PortCall} (h : c.isWrite = false) : c.writesPC = false := by
  cases c with
  | readRegister | readMemory => rfl
  | writeRegister | writeMemory => cases h

theorem traced_note_read {c : PortCall} (h : c.isWrite = false) (s : State) : Traced [c] s (s.note c) :=
  ⟨rfl, by simp [State.note, PortCall.writesPC_of_read h]⟩

theorem traced_portWriteRegister (ctx : Context) (r : PortReg) (v : DWord) (s : State) :
    Traced [.writeRegister ctx r v (portWriteRegister ctx r v s).1] s (portWriteRegister ctx r v s).2 :=
  ⟨by simp, by simp [PortCall.writesPC]⟩

theorem traced_portWriteMemory (ctx : Context) (a : Word) (n : Nat) (v : DWord) (s : State) :
    Traced [.writeMemory ctx a n (lowBytes v n) (portWriteMemory ctx a n v s).1] s (portWriteMemory ctx a n v s).2 :=
  ⟨by simp, by simp [PortCall.writesPC]⟩

/-- A status write that goes with a new staged value. -/
theorem traced_stagedWrite (ctx : Context) (v : DWord) (s : State) (out : Word) :
    let p := portWriteRegister ctx .status v { s with cpsrOut := out }
    Traced [.writeRegister ctx .status v p.1] s p.2 :=
  have h := traced_portWriteRegister ctx .status v { s with cpsrOut := out }
  ⟨h.trace, h.pcWritten⟩

theorem Answered.nil {s t : State} (ht : t.trace = s.trace) (hp : t.pcWritten = s.pcWritten) : Answered s t :=
  ⟨[], .nil ht hp, nofun⟩

theorem Answered.trans {s t u : State} (h : Answered s t) (k : Answered t u) : Answered s u := by
  obtain ⟨cs, h, hc⟩ := h
  obtain ⟨ds, k, kd⟩ := k
  exact ⟨ds ++ cs, h.trans k, fun c hm => (List.mem_append.1 hm).elim (kd c) (hc c)⟩

theorem FailsAfterAnswered.tail {f : Failure} {s t u : State} (h : Answered s t) (k : FailsAfterAnswered f t u) :
    FailsAfterAnswered f s u := by
  obtain ⟨w, a, k⟩ := k
  exact ⟨w, h.trans a, k⟩

/-- One port call: answered it goes on, refused it ends the handler. -/
theorem Traced.one {c : PortCall} {s t : State} (h : Traced [c] s t) :
    (c.ok = true → Answered s t) ∧ (c.ok = false → FailsAfterAnswered .accessFailure s t) :=
  ⟨fun ok => ⟨[c], h, by simpa using ok⟩, fun ok => ⟨s, .nil rfl rfl, .inr ⟨rfl, c, h, ok⟩⟩⟩

/-- Each primitive effect of the machine makes at most one port call and raises `AccessFailure` where that is refused. -/
theorem closedAnswered : Closed Answered FailsAfterAnswered :=
  .of_ports (fun _ => .nil rfl rfl) .trans .tail
    (fun s _ hc => (traced_note_read hc s).one)
    (fun s ctx r v _ => (traced_portWriteRegister ctx r v s).one)
    (fun s ctx a n v => (traced_portWriteMemory ctx a n v s).one)
    (fun _ => .nil rfl rfl)
    (fun s _ _ _ => (traced_stagedWrite .immediate _ s _).one)
    (fun s set => (traced_stagedWrite (.modeChange set) _ s _).one.imp_left fun answered ok =>
      (answered ok).trans (.nil rfl rfl))

theorem throws_failsAfterAnswered : Throws FailsAfterAnswered := fun _ s hf =>
  ⟨s, .nil rfl rfl, .inl ⟨by rintro rfl; simp at hf, rfl⟩⟩

/-- How the port calls of an instruction go. -/
theorem exec_answered (i : Instr) (s : State) : Answers Answered FailsAfterAnswered s (exec i s) :=
  exec_does_all closedAnswered throws_failsAfterAnswered (fun _ _ _ _ => .nil rfl rfl) s i

/-- Settles O37: each primitive effect makes at most one port call and stops where it is refused, so the calls of an instruction
were all answered, but for the last one where it ends with `AccessFailure`. -/
theorem portCallsOfAnInstruction : Obligations.PortCallsOfAnInstruction := by
  intro i s t e
  have a := exec_answered i s
  rw [e] at a
  obtain ⟨u, ⟨e, calls, tr, ok⟩ | ⟨f, e, w, ⟨calls, tr, ok⟩, ⟨hf, rfl⟩ | ⟨rfl, c, last, refused⟩⟩⟩ := a
  · cases e
    exact ⟨calls, tr.trace, tr.pcWritten, fun _ => ok, nofun⟩
  · cases e
    exact ⟨calls, tr.trace, tr.pcWritten, fun _ => ok, fun hacc => absurd (Option.some.inj hacc) hf⟩
  · cases e
    have all := tr.trans last
    exact ⟨c :: calls, all.trace, all.pcWritten, fun hacc => absurd rfl hacc, fun _ => ⟨c, calls, rfl, refused, ok⟩⟩

/-! ## The port writes of a handler -/

/-- A served status write, noted. -/
def statusWrite (t : State) : PortCall := .writeRegister .immediate .status (t.status.setWidth 64) true

/-- A served write of core register `d` with its value at the end, noted. -/
def coreWrite (ctx : Context) (d : RegNum) (t : State) : PortCall :=
  .writeRegister ctx (.core d) ((t.getCore d).setWidth 64) true

/-- `h` ends normally and its port writes, newest first, are `ws` of the state it leaves. -/
def Wrote (h : Handler Unit) (s : State) (ws : State → List PortCall) : Prop :=
  ∃ t, h s = .ok () t ∧ t.writes = ws t ++ s.writes

theorem pure_wrote (s : State) : Wrote (pure ()) s fun _ => [] := ⟨s, rfl, rfl⟩

/-- Reads in front of a handler add no write. -/
theorem OnlyReads.wrote {α : Type} {h : Handler α} {k : α → Handler Unit} {s : State} {v : α} {ws : State → List PortCall}
    (e : OnlyReads h s v) (w : ∀ tr, Wrote (k v) { s with trace := tr } ws) : Wrote (h >>= k) s ws := by
  obtain ⟨calls, e, reads⟩ := e
  obtain ⟨t, ht, w⟩ := w (calls ++ s.trace)
  have noWrites : calls.filter PortCall.isWrite = [] := by simpa using reads
  exact ⟨t, (bind_ok e).trans ht, by simpa [State.writes, noWrites] using w⟩

/-- Two handlers that end alike in this state write alike. -/
theorem Wrote.congr {h k : Handler Unit} {s : State} {ws : State → List PortCall} (w : Wrote h s ws) (e : k s = h s) :
    Wrote k s ws := by
  obtain ⟨t, ht, w⟩ := w
  exact ⟨t, e.trans ht, w⟩

/-- What an instruction writes is what its handler writes. -/
theorem Wrote.executed {i : Instr} {h : Handler Unit} {s : State} {ws : State → List PortCall} (w : Wrote h s ws)
    (e : exec i s = runHandler h s) (hw : ∀ t : State, ws t.succeed = ws t) :
    ∃ t, exec i s = .next t ∧ t.fault = none ∧ t.writes = ws t ++ s.writes := by
  obtain ⟨t, ht, w⟩ := w
  exact ⟨t.succeed, e.trans (runHandler_ok ht), rfl, (hw t).symm ▸ w⟩

theorem Operand2.value_onlyReads {s : State} (h : s.served) (o : Operand2) : OnlyReads o.value s (o.valueIn s) := by
  cases o with
  | imm v c => exact .here rfl
  | reg m ty amount => exact (readReg_onlyReads h m).then fun tr => .here rfl

theorem firstOperand_onlyReads {s : State} (h : s.served) (n : Option RegNum) :
    OnlyReads (firstOperand n) s (firstIn s n) := by
  cases n with
  | none => exact .here rfl
  | some n => exact readReg_onlyReads h n

theorem carryIn_onlyReads (s : State) : OnlyReads carryIn s (flagC s.inst.cpsr) := .here rfl

theorem writeReg_wrote {s : State} (h : s.served) (ctx : Context) (d : RegNum) (v : Word) :
    Wrote (writeReg ctx d v) s fun t => [coreWrite ctx d t] :=
  ⟨_, writeReg_served h ctx d v, by simp only [coreWrite, State.getCore_afterWrite_same]; rfl⟩

theorem writeFlags_wrote {s : State} (h : s.served) (r : Word) (c v : Option Bool) :
    Wrote (writeFlags r c v) s fun t => [statusWrite t] :=
  ⟨_, writeFlags_served h r c v, rfl⟩

/-- The result write and the flag write of `WriteCoreRegOptionalFlags` (40_primitives.md rule R162), the destination not the PC. -/
theorem writeCoreRegOptionalFlags_wrote {s : State} (h : s.served) (ctx : Word → Context) {d : RegNum} (hd : d ≠ 15)
    (setflags : Bool) (r : Word) (c v : Option Bool) :
    Wrote (writeCoreRegOptionalFlags (ctx r) r d setflags c v) s fun t =>
      (if setflags = true then [statusWrite t] else []) ++ [coreWrite (ctx (t.getCore d)) d t] := by
  rw [writeCoreRegOptionalFlags, if_neg hd]
  have first := writeReg_served h (ctx r) d r
  cases setflags with
  | false => exact ⟨_, bind_ok first, by simp only [coreWrite, State.getCore_afterWrite_same]; rfl⟩
  | true =>
    refine ⟨_, (bind_ok first).trans (writeFlags_served (by simpa using h) r c v), ?_⟩
    have value : ((s.afterWrite (ctx r) d r).afterFlags r c v).getCore d = r := State.getCore_afterWrite_same s (ctx r) d r
    simp only [coreWrite, value]
    rfl

/-- The writes of the data-processing template (43_dp_arith.md rule R221), the destination not the PC. -/
theorem dataProc_wrote {s : State} (h : s.served) (op : AluOp) {d : RegNum} (hd : d ≠ 15) (n : Option RegNum) (o : Operand2)
    (setflags : Bool) :
    Wrote (dataProc op d n o setflags) s fun t =>
      (if setflags = true then [statusWrite t] else []) ++
        [coreWrite (resultContext d n o.isImm (t.getCore d - firstIn s n)) d t] :=
  (Operand2.value_onlyReads h o).wrote fun tr =>
    (firstOperand_onlyReads (s := { s with trace := tr }) h n).wrote fun tr' =>
      (carryIn_onlyReads { s with trace := tr' }).wrote fun tr'' =>
        writeCoreRegOptionalFlags_wrote (s := { s with trace := tr'' }) h
          (fun r => resultContext d n o.isImm (r - firstIn s n)) hd setflags _ _ _

/-- The write of the compare template (40_primitives.md rule R163). -/
theorem compare_wrote {s : State} (h : s.served) (op : AluOp) (n : RegNum) (o : Operand2) :
    Wrote (compare op n o) s fun t => [statusWrite t] :=
  (Operand2.value_onlyReads h o).wrote fun tr =>
    (readReg_onlyReads (s := { s with trace := tr }) h n).wrote fun tr' =>
      (carryIn_onlyReads { s with trace := tr' }).wrote fun tr'' =>
        writeFlags_wrote (s := { s with trace := tr'' }) h _ _ _

/-- A memory write in front of a handler stands before the handler's own writes. -/
theorem memWrite_then_wrote {s : State} (h : s.served) {k : Unit → Handler Unit} {ws : State → List PortCall} (ctx : Context)
    (a : Word) (n : Nat) (v : DWord) (w : Wrote (k ()) (s.afterStore ctx a n v) ws) :
    Wrote (memWrite ctx a n v >>= k) s fun t => ws t ++ [.writeMemory ctx a n (lowBytes v n) true] := by
  obtain ⟨t, ht, w⟩ := w
  have noted : (s.afterStore ctx a n v).writes = .writeMemory ctx a n (lowBytes v n) true :: s.writes := rfl
  exact ⟨t, (bind_ok (memWrite_served h ctx a n v)).trans ht, by simpa [noted] using w⟩

/-- The write of a store of rule R350 without writeback. -/
theorem storeSingle_wrote {s : State} (h : s.served) (rt : RegNum) (size : Nat) {f : AddrForm} (hw : f.wback = false)
    {change : Word} (hc : f.addressIn s - f.base.valueIn s = change) :
    Wrote (storeSingle rt size f) s fun _ =>
      [.writeMemory (.registerStore rt f.base.num change) (f.addressIn s) size
        (lowBytes ((s.operand rt).setWidth 64) size) true] := by
  subst hc
  have last : ∀ base offset, writebackBase f base offset = pure () := fun _ _ => by simp [writebackBase, hw]
  unfold storeSingle
  simp only [last]
  exact (AddrBase.value_onlyReads h f.base).wrote fun tr =>
    (AddrOffset.value_onlyReads (s := { s with trace := tr }) h f.offset).wrote fun tr' =>
      (readReg_onlyReads (s := { s with trace := tr' }) h rt).wrote fun tr'' =>
        memWrite_then_wrote (s := { s with trace := tr'' }) h _ _ _ _ (pure_wrote _)

/-- STR at base plus offset: the payload is the offset (48_load_store_single.md rule R350, 20_memory.md rule R75). -/
theorem storeSingle_offset_wrote {s : State} (h : s.served) (rt rn : RegNum) (offset : Word) :
    Wrote (storeSingle rt 4 { base := .reg rn, offset := .imm offset, index := true, add := true, wback := false }) s fun _ =>
      [.writeMemory (.registerStore rt rn offset) (s.operand rn + offset) 4 ((s.operand rt).setWidth 64) true] := by
  have payload : s.operand rn + offset - s.operand rn = offset := by rw [BitVec.add_comm, BitVec.add_sub_cancel]
  rw [← lowBytes_setWidth]
  exact storeSingle_wrote h rt 4 rfl payload

/-! ## PUSH of one register -/

theorem bitCount_oneReg : ∀ rt : RegNum, bitCount (oneReg rt) = 1 := by decide

theorem regNumbers_oneReg : ∀ rt : RegNum, regNumbers (oneReg rt) = [rt] := by decide

/-- PUSH of one register that is not SP: no word is UNKNOWN, and the list loop is one store (42_stack.md rule R201). -/
theorem push_oneReg {rt : RegNum} (hrt : rt ≠ 13) : push (oneReg rt) = (do
    let sp ← readReg 13
    let v ← readReg rt
    memWrite (.stackPush (.core rt) (-4)) (sp + -4) 4 (v.setWidth 64)
    writeReg (.adjustStackPointer (-4)) 13 (sp + -4)) := by
  have known : (rt == 13) = false := by simpa using hrt
  have down : 0 - BitVec.ofNat 32 (4 * 1) = -4 := rfl
  simp only [push, bitCount_oneReg, regNumbers_oneReg, storeLoop, known, down, Bool.false_and, Bool.false_eq_true, if_false,
    bind_assoc, pure_bind]

theorem push_oneReg_wrote {s : State} (h : s.served) {rt : RegNum} (hrt : rt ≠ 13) :
    Wrote (push (oneReg rt)) s fun t =>
      [coreWrite (.adjustStackPointer (-4)) 13 t,
        .writeMemory (.stackPush (.core rt) (-4)) (s.getCore 13 - 4) 4 ((s.operand rt).setWidth 64) true] := by
  rw [push_oneReg hrt, BitVec.sub_eq_add_neg, ← lowBytes_setWidth]
  exact (readReg_onlyReads h 13).wrote fun tr =>
    (readReg_onlyReads (s := { s with trace := tr }) h rt).wrote fun tr' =>
      memWrite_then_wrote (s := { s with trace := tr' }) h (ws := fun t => [coreWrite (.adjustStackPointer (-4)) 13 t]) _ _ _ _
        (writeReg_wrote (by exact h) _ _ _)

/-! ## The statement -/

/-- The template on an immediate of an ARM word: the context of the result write is that of an immediate form (43_dp_arith.md
rules R220, R221). -/
theorem dataProc_armImm_wrote {s : State} (h : s.served) (op : AluOp) {d : RegNum} (hd : d ≠ 15) (n : RegNum) (imm12 : BitVec 12)
    (setflags : Bool) {ctx : Word → Context} (hctx : resultContext d (some n) true = ctx) :
    Wrote (armImm imm12 >>= fun o => dataProc op d (some n) o setflags) s fun t =>
      (if setflags = true then [statusWrite t] else []) ++ [coreWrite (ctx (t.getCore d - s.operand n)) d t] := by
  subst hctx
  refine Wrote.congr ?_ (bind_ok (armImm_eq imm12 s))
  exact dataProc_wrote h op hd (some n) _ setflags

/-- Settles O60: each of the five forms is one template, and a template reads its operands and then makes the writes listed. -/
theorem taggedWrites : Obligations.TaggedWrites := by
  intro s h cond setS rn rd imm12 ctx wrote result
  have hctx : resultContext rd (some rn) true = ctx := by
    funext change
    simp [resultContext, ctx]
  refine ⟨fun hd => ⟨?_, ?_⟩, ?_, ?_, fun hd => ?_⟩
  · exact (dataProc_armImm_wrote h .add hd rn imm12 setS hctx).executed rfl fun _ => rfl
  · exact (dataProc_armImm_wrote h .sub hd rn imm12 setS hctx).executed rfl fun _ => rfl
  · exact ((compare_wrote h .sub rn _).congr (bind_ok (armImm_eq imm12 s))).executed rfl fun _ => rfl
  · exact (storeSingle_offset_wrote h rd rn (imm12.setWidth 32)).executed rfl fun _ => rfl
  · have known : (rd == 13) = false := by simpa using hd
    exact ((push_oneReg_wrote h hd).congr (unpredictableIf_pass known)).executed rfl fun _ => rfl

end Sys2Proof.Machine
end

section
/-! Proofs of the statements about the decoder (30_encoding.md rules R90 to R104, R116): decode after encode, the scan of a table
with its two filters, and the forms that are outside the subset. -/

namespace Sys2Proof

/-! ## What a matching row says about a word -/

/-- A field that the mask of a matching row covers is the row's (30_encoding.md rule R92). -/
theorem fld_of_hits {w m v : Word} (h : w &&& m = v) {lo n : Nat} (hm : fld m lo n = BitVec.allOnes n) :
    fld w lo n = fld v lo n := by
  apply BitVec.eq_of_getLsbD_eq
  intro i hi
  have covered : m.getLsbD (lo + i) = true := by simpa [fld, hi] using congrArg (·.getLsbD i) hm
  simp [fld, hi, ← h, covered]

theorem getLsbD_of_hits {w m v : Word} (h : w &&& m = v) {k : Nat} (hm : m.getLsbD k = true) :
    w.getLsbD k = v.getLsbD k := by
  simp [← h, hm]

theorem fld_and (x y : Word) (lo n : Nat) : fld (x &&& y) lo n = fld x lo n &&& fld y lo n := by
  simp [fld, BitVec.extractLsb'_and]

/-- A field of a matching word agrees with the row's value where the row's mask asks. -/
theorem Row.fld_hits {r : Row} {w : Word} (h : r.hits w = true) (lo n : Nat) :
    fld w lo n &&& fld r.mask lo n = fld r.value lo n := by
  have hw : w &&& r.mask = r.value := by simpa [Row.hits] using h
  rw [← hw, fld_and]

/-! ## Every well-formed instruction is the reading of its word -/

open Laws.RowReadsBack in
/-- Every instruction's word is read back by a row of its own table. -/
theorem rowReadsBack : ∀ i : Instr, Statement i
  | .pushA1 .. => pushA1 .. | .pushA2 .. => pushA2 .. | .vpushA1 .. => vpushA1 .. | .vpushA2 .. => vpushA2 ..
  | .popA1 .. => popA1 .. | .popA2 .. => popA2 .. | .vpopA1 .. => vpopA1 .. | .vpopA2 .. => vpopA2 .. | .svcA1 .. => svcA1 ..
  | .blxImmA2 .. => blxImmA2 .. | .bA1 .. => bA1 .. | .blImmA1 .. => blImmA1 .. | .blxRegA1 .. => blxRegA1 ..
  | .bxA1 .. => bxA1 .. | .adcImmA1 .. => adcImmA1 .. | .adcRegA1 .. => adcRegA1 .. | .addImmA1 .. => addImmA1 ..
  | .addRegA1 .. => addRegA1 .. | .andImmA1 .. => andImmA1 .. | .andRegA1 .. => andRegA1 .. | .eorImmA1 .. => eorImmA1 ..
  | .eorRegA1 .. => eorRegA1 .. | .orrImmA1 .. => orrImmA1 .. | .orrRegA1 .. => orrRegA1 .. | .rsbImmA1 .. => rsbImmA1 ..
  | .rsbRegA1 .. => rsbRegA1 .. | .rscImmA1 .. => rscImmA1 .. | .rscRegA1 .. => rscRegA1 .. | .subImmA1 .. => subImmA1 ..
  | .subRegA1 .. => subRegA1 .. | .teqImmA1 .. => teqImmA1 .. | .teqRegA1 .. => teqRegA1 .. | .tstImmA1 .. => tstImmA1 ..
  | .tstRegA1 .. => tstRegA1 .. | .mvnImmA1 .. => mvnImmA1 .. | .mvnRegA1 .. => mvnRegA1 .. | .cmnImmA1 .. => cmnImmA1 ..
  | .cmnRegA1 .. => cmnRegA1 .. | .cmpImmA1 .. => cmpImmA1 .. | .cmpRegA1 .. => cmpRegA1 .. | .asrImmA1 .. => asrImmA1 ..
  | .asrRegA1 .. => asrRegA1 .. | .lslImmA1 .. => lslImmA1 .. | .lslRegA1 .. => lslRegA1 .. | .lsrImmA1 .. => lsrImmA1 ..
  | .lsrRegA1 .. => lsrRegA1 .. | .rrxA1 .. => rrxA1 .. | .rorImmA1 .. => rorImmA1 .. | .rorRegA1 .. => rorRegA1 ..
  | .ldmA1 .. => ldmA1 .. | .ldmdaA1 .. => ldmdaA1 .. | .ldmdbA1 .. => ldmdbA1 .. | .ldmibA1 .. => ldmibA1 ..
  | .ldrLitA1 .. => ldrLitA1 .. | .ldrImmA1 .. => ldrImmA1 .. | .ldrRegA1 .. => ldrRegA1 .. | .ldrbLitA1 .. => ldrbLitA1 ..
  | .ldrbImmA1 .. => ldrbImmA1 .. | .ldrbRegA1 .. => ldrbRegA1 .. | .stmA1 .. => stmA1 .. | .stmdaA1 .. => stmdaA1 ..
  | .stmdbA1 .. => stmdbA1 .. | .stmibA1 .. => stmibA1 .. | .strImmA1 .. => strImmA1 .. | .strRegA1 .. => strRegA1 ..
  | .strbImmA1 .. => strbImmA1 .. | .strbRegA1 .. => strbRegA1 .. | .pushT1 .. => pushT1 .. | .popT1 .. => popT1 ..
  | .addSpImmT1 .. => addSpImmT1 .. | .addSpImmT2 .. => addSpImmT2 .. | .subSpImmT1 .. => subSpImmT1 ..
  | .svcT1 .. => svcT1 .. | .bT1 .. => bT1 .. | .bT2 .. => bT2 .. | .blxRegT1 .. => blxRegT1 .. | .bxT1 .. => bxT1 ..
  | .cbzT1 .. => cbzT1 .. | .cbnzT1 .. => cbnzT1 .. | .itT1 .. => itT1 .. | .adcRegT1 .. => adcRegT1 ..
  | .addImmT1 .. => addImmT1 .. | .addImmT2 .. => addImmT2 .. | .addRegT1 .. => addRegT1 .. | .addRegT2 .. => addRegT2 ..
  | .andRegT1 .. => andRegT1 .. | .eorRegT1 .. => eorRegT1 .. | .orrRegT1 .. => orrRegT1 .. | .mvnRegT1 .. => mvnRegT1 ..
  | .rsbImmT1 .. => rsbImmT1 .. | .subImmT1 .. => subImmT1 .. | .subImmT2 .. => subImmT2 .. | .subRegT1 .. => subRegT1 ..
  | .cmpImmT1 .. => cmpImmT1 .. | .cmpRegT1 .. => cmpRegT1 .. | .cmpRegT2 .. => cmpRegT2 .. | .cmnRegT1 .. => cmnRegT1 ..
  | .tstRegT1 .. => tstRegT1 .. | .asrImmT1 .. => asrImmT1 .. | .asrRegT1 .. => asrRegT1 .. | .lslImmT1 .. => lslImmT1 ..
  | .lslRegT1 .. => lslRegT1 .. | .lsrImmT1 .. => lsrImmT1 .. | .lsrRegT1 .. => lsrRegT1 .. | .rorRegT1 .. => rorRegT1 ..
  | .ldmT1 .. => ldmT1 .. | .stmT1 .. => stmT1 .. | .ldrImmT1 .. => ldrImmT1 .. | .ldrImmT2 .. => ldrImmT2 ..
  | .ldrLitT1 .. => ldrLitT1 .. | .ldrRegT1 .. => ldrRegT1 .. | .strImmT1 .. => strImmT1 .. | .strImmT2 .. => strImmT2 ..
  | .strRegT1 .. => strRegT1 .. | .ldrbImmT1 .. => ldrbImmT1 .. | .ldrbRegT1 .. => ldrbRegT1 ..
  | .strbImmT1 .. => strbImmT1 .. | .strbRegT1 .. => strbRegT1 .. | .pushT2 .. => pushT2 .. | .pushT3 .. => pushT3 ..
  | .popT2 .. => popT2 .. | .popT3 .. => popT3 .. | .vpushT1 .. => vpushT1 .. | .vpushT2 .. => vpushT2 ..
  | .vpopT1 .. => vpopT1 .. | .vpopT2 .. => vpopT2 .. | .bT3 .. => bT3 .. | .bT4 .. => bT4 .. | .blxImmT2 .. => blxImmT2 ..
  | .blImmT1 .. => blImmT1 .. | .tbbT1 .. => tbbT1 .. | .tbhT1 .. => tbhT1 .. | .cmnImmT1 .. => cmnImmT1 ..
  | .cmpImmT2 .. => cmpImmT2 .. | .tstImmT1 .. => tstImmT1 .. | .teqImmT1 .. => teqImmT1 .. | .cmnRegT2 .. => cmnRegT2 ..
  | .cmpRegT3 .. => cmpRegT3 .. | .tstRegT2 .. => tstRegT2 .. | .teqRegT1 .. => teqRegT1 .. | .adcImmT1 .. => adcImmT1 ..
  | .adcRegT2 .. => adcRegT2 .. | .addImmT3 .. => addImmT3 .. | .addImmT4 .. => addImmT4 .. | .addRegT3 .. => addRegT3 ..
  | .andImmT1 .. => andImmT1 .. | .andRegT2 .. => andRegT2 .. | .eorImmT1 .. => eorImmT1 .. | .eorRegT2 .. => eorRegT2 ..
  | .mvnImmT1 .. => mvnImmT1 .. | .mvnRegT2 .. => mvnRegT2 .. | .lslImmT2 .. => lslImmT2 .. | .lsrImmT2 .. => lsrImmT2 ..
  | .asrImmT2 .. => asrImmT2 .. | .rrxT1 .. => rrxT1 .. | .rorImmT1 .. => rorImmT1 .. | .orrImmT1 .. => orrImmT1 ..
  | .orrRegT2 .. => orrRegT2 .. | .rsbImmT2 .. => rsbImmT2 .. | .rsbRegT1 .. => rsbRegT1 .. | .subImmT3 .. => subImmT3 ..
  | .subImmT4 .. => subImmT4 .. | .subRegT2 .. => subRegT2 .. | .asrRegT2 .. => asrRegT2 .. | .lslRegT2 .. => lslRegT2 ..
  | .lsrRegT2 .. => lsrRegT2 .. | .rorRegT2 .. => rorRegT2 .. | .ldmT2 .. => ldmT2 .. | .ldmdbT1 .. => ldmdbT1 ..
  | .stmT2 .. => stmT2 .. | .stmdbT1 .. => stmdbT1 .. | .ldrLitT2 .. => ldrLitT2 .. | .ldrImmT3 .. => ldrImmT3 ..
  | .ldrImmT4 .. => ldrImmT4 .. | .ldrRegT2 .. => ldrRegT2 .. | .ldrbLitT1 .. => ldrbLitT1 .. | .ldrbImmT2 .. => ldrbImmT2 ..
  | .ldrbImmT3 .. => ldrbImmT3 .. | .ldrbRegT2 .. => ldrbRegT2 .. | .strImmT3 .. => strImmT3 .. | .strImmT4 .. => strImmT4 ..
  | .strRegT2 .. => strRegT2 .. | .strbImmT2 .. => strbImmT2 .. | .strbImmT3 .. => strbImmT3 ..
  | .strbRegT2 .. => strbRegT2 ..

/-- The overlapping rows of a table, earlier and later, by position. -/
def overlapsOf : InstrSet → Width → List (Nat × Nat)
  | .arm, .w32 => armOverlaps
  | .arm, .w16 => []
  | .thumb, .w16 => thumb16Overlaps
  | .thumb, .w32 => thumb32Overlaps

theorem tableOf_overlaps : ∀ set width, overlapsOnly (tableOf set width) (overlapsOf set width) = true
  | .arm, .w32 => armTable_overlaps
  | .arm, .w16 => rfl
  | .thumb, .w16 => thumb16Table_overlaps
  | .thumb, .w32 => thumb32Table_overlaps

/-- Where the earlier row of a pair matches a word, the later row reads no well-formed instruction from it (30_encoding.md
rule R99). -/
def Forestalls (table : List Row) (p : Nat × Nat) : Prop :=
  ∀ r' r, table[p.1]? = some r' → table[p.2]? = some r → ∀ w, r'.hits w = true → (r.build w).wellFormed = false

theorem Forestalls.of_rows {table : List Row} {p : Nat × Nat} {r' r : Row} (h' : table[p.1]? = some r')
    (h : table[p.2]? = some r) (ill : ∀ w, w &&& r'.mask = r'.value → (r.build w).wellFormed = false) :
    Forestalls table p := by
  intro q' q hq' hq w hw
  obtain rfl : r' = q' := Option.some.inj (h'.symm.trans hq')
  obtain rfl : r = q := Option.some.inj (h.symm.trans hq)
  exact ill w (by simpa [Row.hits] using hw)

/-- Rule R99 pair by pair: the mask of the earlier row covers every field that the later row's check looks at, and the check
refuses the earlier row's values there. -/
theorem overlapsOf_forestall : ∀ set width, ∀ p ∈ overlapsOf set width, Forestalls (tableOf set width) p := by
  rintro (_ | _) (_ | _)
  all_goals simp only [overlapsOf, armOverlaps, thumb16Overlaps, thumb32Overlaps, List.forall_mem_cons, List.not_mem_nil,
    IsEmpty.forall_iff, implies_true, and_true]
  all_goals and_intros
  all_goals
    refine .of_rows rfl rfl fun w h => ?_
    simp (disch := decide) only [fld_of_hits h, getLsbD_of_hits h, decAImm24, decAShiftImm, decALdm, decALsImm, decT16Bcond,
      decT32Modimm, decT32DpReg, decT32ShiftImm, decT32Ldm, decT32LdmStore, decT32LsImm12, decT32LsImm8, decT32LsReg,
      Instr.wellFormed]
    rfl

/-- A row that reads a well-formed instruction from a word it matches is the first that matches (R92, R99). -/
theorem decode_of_hits {set : InstrSet} {width : Width} {k : Nat} {r : Row} {w : Word}
    (hk : (tableOf set width)[k]? = some r) (hw : r.hits w = true) (wf : (r.build w).wellFormed = true) :
    decode set width w = some (r.build w) := by
  refine lookupIn_of_overlaps (tableOf_overlaps set width) hk hw fun j hj r' hr' => ?_
  by_contra hits
  have ill := overlapsOf_forestall set width (j, k) (List.contains_iff_mem.1 hj) r' r hr' hk w (by simpa using hits)
  exact absurd (wf.symm.trans ill) (by decide)

/-- The decoder gives back every well-formed instruction from its word, by a row of the table that matches the word. -/
theorem decode_encode {i : Instr} (wf : i.wellFormed = true) : decode i.form.1 i.form.2 (encode i) = some i := by
  obtain ⟨k, r, hk, hw, hb⟩ := rowReadsBack i
  rw [decode_of_hits hk hw (by rw [hb, wf]), hb]

theorem decode_of_encode {set : InstrSet} {width : Width} {i : Instr} {w : Word} (hf : i.form = (set, width))
    (wf : i.wellFormed = true) (hw : encode i = w) : decode set width w = some i := by
  have back := decode_encode wf
  rwa [hf, hw] at back

theorem exists_row_hits {set : InstrSet} {width : Width} {i : Instr} (hf : i.form = (set, width)) :
    ∃ r ∈ tableOf set width, r.hits (encode i) = true := by
  obtain ⟨k, r, hk, hw, -⟩ := rowReadsBack i
  rw [hf] at hk
  exact ⟨r, List.mem_of_getElem? hk, hw⟩

/-! ## Words and their bytes (20_memory.md rule R64) -/

theorem fld_append_fld (w : Word) (lo n m : Nat) : fld w (lo + n) m ++ fld w lo n = fld w lo (m + n) :=
  BitVec.extractLsb'_append_extractLsb'_eq_extractLsb' rfl

theorem halfLE_fld (w : Word) (lo : Nat) : halfLE (fld w lo 8) (fld w (lo + 8) 8) = fld w lo 16 := fld_append_fld w lo 8 8

theorem wordLE_fld (w : Word) : wordLE (fld w 0 8) (fld w 8 8) (fld w 16 8) (fld w 24 8) = w := by
  rw [wordLE, fld_append_fld w 16 8 8, fld_append_fld w 8 8 16, fld_append_fld w 0 8 24]
  exact BitVec.extractLsb'_eq_self

theorem halves_fld (w : Word) : fld w 16 16 ++ fld w 0 16 = w :=
  (fld_append_fld w 0 16 16).trans BitVec.extractLsb'_eq_self

/-! ## The width of a Thumb word (30_encoding.md rules R95, R96) -/

/-- The top five bits of the halfwords that begin a 32-bit Thumb instruction (R95). -/
def wideTops : List (BitVec 5) := [0b11101, 0b11110, 0b11111]

theorem thumbIsWide_iff (w : Word) (lo : Nat) : thumbIsWide (fld w lo 16) = true ↔ fld w (lo + 11) 5 ∈ wideTops := by
  have top : (fld w lo 16).extractLsb' 11 5 = fld w (lo + 11) 5 := by
    apply BitVec.eq_of_getLsbD_eq
    intro i hi
    have : 11 + i < 16 := by omega
    simp [fld, hi, this, Nat.add_assoc]
  simp [thumbIsWide, wideTops, top, or_assoc]

theorem thumb16Table_narrow :
    ∀ r ∈ thumb16Table, ∀ top ∈ wideTops, top &&& fld r.mask 11 5 ≠ fld r.value 11 5 := by decide +kernel

theorem thumb32Table_wide :
    ∀ r ∈ thumb32Table, fld r.mask 27 5 = BitVec.allOnes 5 ∧ fld r.value 27 5 ∈ wideTops := by decide +kernel

theorem thumb16Table_not_wide {r : Row} (hr : r ∈ thumb16Table) {w : Word} (h : r.hits w = true) :
    thumbIsWide (fld w 0 16) = false := by
  by_contra hn
  have wide := (thumbIsWide_iff w 0).1 (by simpa using hn)
  exact thumb16Table_narrow r hr _ wide (r.fld_hits h 11 5)

theorem thumb32Table_isWide {r : Row} (hr : r ∈ thumb32Table) {w : Word} (h : r.hits w = true) :
    thumbIsWide (fld w 16 16) = true := by
  obtain ⟨covered, wide⟩ := thumb32Table_wide r hr
  have top := r.fld_hits h 27 5
  rw [covered, BitVec.and_allOnes] at top
  exact (thumbIsWide_iff w 16).2 (top ▸ wide)

/-- The word of a 16-bit instruction is a halfword: the fixed bits and every field of rule R103 stand below bit 16. -/
theorem encode_w16_high {i : Instr} (h : i.form = (.thumb, .w16)) : encode i &&& 0xffff0000 = 0 := by
  cases i <;> cases h
  all_goals
    simp (disch := decide) only [encode, encT16B, encT16Bcond, encT16Cb, encT16Dp, encT16Hi, encT16Imm3, encT16Imm8, encT16It,
      encT16Ldm, encT16LsImm5, encT16LsReg, encT16Pop, encT16Push, encT16RdnImm8, encT16Reg3, encT16Rm, encT16RtImm8,
      encT16ShiftImm, encT16Sp7, encT16Sprd, or_and_mask, place_and_mask, flag_and_mask]
    rfl

theorem setWidth_fld_of_high {w : Word} (h : w &&& 0xffff0000 = 0) : (fld w 0 16).setWidth 32 = w := by
  have high : fld w 16 16 = 0#16 := fld_of_and h rfl
  calc (fld w 0 16).setWidth 32 = 0#16 ++ fld w 0 16 := BitVec.setWidth_eq_append (by decide)
    _ = w := by rw [← high, halves_fld]

/-! ## Decode after encode -/

theorem decodeWord_of_decode {set : InstrSet} {width : Width} {w : Word} {i : Instr} (h : decode set width w = some i)
    (rest : List Byte) : decodeWord set width w rest = .ok (i, rest) := by
  simp [decodeWord, h]

/-- Settles O42: the four bytes make the word, and the decoder gives the instruction back from it. -/
theorem roundTripArm : Obligations.RoundTripArm := by
  intro i rest hf wf
  simp only [encodeBytes, hf, List.cons_append, List.nil_append, decodeBytes, wordLE_fld]
  exact decodeWord_of_decode (decode_of_encode hf wf rfl) rest

/-- Settles O43: no 16-bit row matches a word that begins as a wide one, and the word has nothing above bit 15. -/
theorem roundTripThumb16 : Obligations.RoundTripThumb16 := by
  intro i rest hf wf
  obtain ⟨r, hr, hits⟩ := exists_row_hits hf
  have narrow := thumb16Table_not_wide hr hits
  simp only [encodeBytes, hf, List.cons_append, List.nil_append, decodeBytes, halfLE_fld _ 0, narrow, Bool.false_eq_true,
    if_false, setWidth_fld_of_high (encode_w16_high hf)]
  exact decodeWord_of_decode (decode_of_encode hf wf rfl) rest

/-- Settles O44: every 32-bit row begins as a wide one, so the first halfword asks for the second. -/
theorem roundTripThumb32 : Obligations.RoundTripThumb32 := by
  intro i rest hf wf
  obtain ⟨r, hr, hits⟩ := exists_row_hits hf
  have wide := thumb32Table_isWide hr hits
  simp only [encodeBytes, hf, List.cons_append, List.nil_append, decodeBytes, halfLE_fld _ 0, halfLE_fld _ 16, wide, if_true,
    halves_fld]
  exact decodeWord_of_decode (decode_of_encode hf wf rfl) rest

/-- Settles O46: each written-out word is the encoder's word of the instruction it stands for. -/
theorem writtenOutWordsDecode : Obligations.WrittenOutWordsDecode :=
  ⟨decode_of_encode rfl rfl rfl, decode_of_encode rfl rfl rfl, decode_of_encode rfl rfl rfl, decode_of_encode rfl rfl rfl,
    decode_of_encode rfl rfl rfl, decode_of_encode rfl rfl rfl, decode_of_encode rfl rfl rfl, decode_of_encode rfl rfl rfl,
    decode_of_encode rfl rfl rfl, decode_of_encode rfl rfl rfl, decode_of_encode rfl rfl rfl⟩

/-! ## The scan and its filters -/

/-- The scan of rule R92 under the variant filter of rule R93, before the filter of rule R94. -/
def scan (p : Params) (arch : ArchVariant) (set : InstrSet) (width : Width) (raw : Word) : Option Instr :=
  lookupIn (if p.strictVariantGating then some arch else none) raw (tableOf set width)

/-- The scan stops at this row: the pattern matches, and the variant is admitted where it is asked for. -/
def Row.selects (p : Params) (arch : ArchVariant) (raw : Word) (r : Row) : Bool :=
  r.hits raw && (!p.strictVariantGating || r.variants.admits arch)

theorem lookupIn_cons (p : Params) (arch : ArchVariant) (raw : Word) (r : Row) (rest : List Row) :
    lookupIn (if p.strictVariantGating then some arch else none) raw (r :: rest) =
      if r.selects p arch raw then some (r.build raw)
      else lookupIn (if p.strictVariantGating then some arch else none) raw rest := by
  cases hg : p.strictVariantGating <;> simp [lookupIn, Row.selects, hg]

/-- The scan is the library's search for the first row that selects the word. -/
theorem lookupIn_eq_find? (p : Params) (arch : ArchVariant) (raw : Word) (table : List Row) :
    lookupIn (if p.strictVariantGating then some arch else none) raw table =
      (table.find? (Row.selects p arch raw)).map (·.build raw) := by
  induction table with
  | nil => rfl
  | cons r rest ih =>
    rw [lookupIn_cons, ih, List.find?_cons]
    cases r.selects p arch raw <;> rfl

theorem Row.selects_eq_false {p : Params} {arch : ArchVariant} {raw : Word} {r : Row} (h : r.selects p arch raw = false)
    (hw : r.hits raw = true) : p.strictVariantGating = true ∧ r.variants.admits arch = false := by
  simpa [Row.selects, hw] using h

theorem scan_of_not_gated {p : Params} (h : p.strictVariantGating = false) (arch : ArchVariant) (set : InstrSet) (width : Width)
    (raw : Word) : scan p arch set width raw = decode set width raw := by
  simp [scan, decode, h]

theorem scan_eq_none {p : Params} {arch : ArchVariant} {set : InstrSet} {width : Width} {raw : Word}
    (h : scan p arch set width raw = none) :
    ∀ r ∈ tableOf set width, r.hits raw = true → p.strictVariantGating = true ∧ r.variants.admits arch = false := by
  rw [scan, lookupIn_eq_find?, Option.map_eq_none_iff, List.find?_eq_none] at h
  exact fun r hr => Row.selects_eq_false (by simpa using h r hr)

/-- The row found is the first that the scan may stop at. -/
theorem scan_eq_some {p : Params} {arch : ArchVariant} {set : InstrSet} {width : Width} {raw : Word} {i : Instr}
    (h : scan p arch set width raw = some i) :
    ∃ (k : Nat) (r : Row), (tableOf set width)[k]? = some r ∧ r.hits raw = true ∧ r.build raw = i ∧
      (p.strictVariantGating = true → r.variants.admits arch = true) ∧
      ∀ j < k, ∀ r', (tableOf set width)[j]? = some r' → r'.hits raw = true →
        p.strictVariantGating = true ∧ r'.variants.admits arch = false := by
  rw [scan, lookupIn_eq_find?] at h
  obtain ⟨r, hr, hb⟩ := Option.map_eq_some_iff.1 h
  obtain ⟨hs, k, hk, hkr, before⟩ := List.find?_eq_some_iff_getElem.1 hr
  obtain ⟨hits, admitted⟩ : r.hits raw = true ∧ (!p.strictVariantGating || r.variants.admits arch) = true := by
    simpa [Row.selects] using hs
  refine ⟨k, r, List.getElem?_eq_some_iff.2 ⟨hk, hkr⟩, hits, hb, fun hg => by simpa [hg] using admitted, ?_⟩
  intro j hj r' hr' hits'
  obtain ⟨_, rfl⟩ := List.getElem?_eq_some_iff.1 hr'
  exact Row.selects_eq_false (by simpa using before j hj) hits'

/-- An ARM word with bits 31:28 = 1111 under `STRICT_COND_1111` (R94). -/
def StrictWord (p : Params) (set : InstrSet) (raw : Word) : Prop :=
  p.strictCond1111 = true ∧ set = .arm ∧ raw.extractLsb' 28 4 = 15

def Instr.isBlxImmA2 : Instr → Bool
  | .blxImmA2 .. => true
  | _ => false

theorem Instr.isBlxImmA2_iff {i : Instr} : i.isBlxImmA2 = true ↔ ∃ h imm24, i = .blxImmA2 h imm24 := by
  constructor
  · intro hi
    unfold isBlxImmA2 at hi
    split at hi
    · exact ⟨_, _, rfl⟩
    · cases hi
  · rintro ⟨h, imm24, rfl⟩
    rfl

theorem lookup_eq_scan_filter (p : Params) (arch : ArchVariant) (set : InstrSet) (width : Width) (raw : Word) :
    lookup p arch set width raw =
      (scan p arch set width raw).filter fun i => !(p.strictCond1111 && strictCondRejects set raw i) := by
  rw [lookup, ← scan]
  cases scan p arch set width raw with
  | none => rfl
  | some i =>
    simp only [Option.filter_some]
    cases p.strictCond1111 && strictCondRejects set raw i <;> rfl

theorem strictCondRejects_eq (set : InstrSet) (raw : Word) (i : Instr) :
    strictCondRejects set raw i = (set == .arm && raw.extractLsb' 28 4 == 15 && !i.isBlxImmA2) := rfl

/-- Rule R94 leaves every other word to the scan. -/
theorem lookup_of_not_strict {p : Params} {set : InstrSet} {raw : Word} (h : ¬ StrictWord p set raw) (arch : ArchVariant)
    (width : Width) : lookup p arch set width raw = scan p arch set width raw := by
  have kept (i : Instr) : (!(p.strictCond1111 && strictCondRejects set raw i)) = true := by
    by_contra hn
    simp only [strictCondRejects_eq, Bool.not_eq_true, Bool.not_eq_false', Bool.and_eq_true, beq_iff_eq] at hn
    obtain ⟨hs, ⟨ha, hc⟩, -⟩ := hn
    exact h ⟨hs, ha, hc⟩
  rw [lookup_eq_scan_filter]
  cases scan p arch set width raw with
  | none => rfl
  | some i => rw [Option.filter_some, if_pos (kept i)]

/-- Of a strict word rule R94 keeps BLX (immediate) A2 alone. -/
theorem lookup_of_strict {p : Params} {set : InstrSet} {raw : Word} (h : StrictWord p set raw) (arch : ArchVariant)
    (width : Width) : lookup p arch set width raw = (scan p arch set width raw).filter Instr.isBlxImmA2 := by
  obtain ⟨hs, rfl, hc⟩ := h
  rw [lookup_eq_scan_filter]
  congr 1
  funext i
  simp [strictCondRejects_eq, hs, hc]

theorem scan_of_lookup {p : Params} {arch : ArchVariant} {set : InstrSet} {width : Width} {raw : Word} {i : Instr}
    (h : lookup p arch set width raw = some i) : scan p arch set width raw = some i := by
  rw [lookup_eq_scan_filter] at h
  exact (Option.filter_eq_some_iff.1 h).1

/-- Settles O55: the lookup is the scan, which is the library's `find?`, and of a strict word what is BLX (immediate) A2 in it. -/
theorem rowFilters : Obligations.RowFilters := by
  intro p arch set width raw strictWord
  refine ⟨fun hg hs => ?_, fun i hi => ⟨scan_eq_some (scan_of_lookup hi), fun hs => ?_⟩,
    fun hs h imm24 hb => ?_, fun hs hn => ?_⟩
  · rw [lookup_of_not_strict hs, scan_of_not_gated hg]
  · rw [lookup_of_strict hs] at hi
    exact Instr.isBlxImmA2_iff.1 (Option.filter_eq_some_iff.1 hi).2
  · have found : scan p arch set width raw = some (.blxImmA2 h imm24) :=
      scan_of_lookup (p := { p with strictCond1111 := false }) hb
    rw [lookup_of_strict hs, found]
    rfl
  · rw [lookup_of_not_strict hs] at hn
    exact scan_eq_none hn

/-! ## Forms outside the subset -/

namespace Machine

/-- A handler whose first test finds the operands outside the subset (R116) has done nothing yet (60_exceptions.md rule R405). -/
theorem outsideSubset_of_test {i : Instr} {s : State} {b : Bool} {k : Unit → Handler Unit}
    (e : exec i s = runHandler (notInSubsetIf b >>= k) s) (hb : b = true) : OutsideSubset i s :=
  raises_of e (notInSubsetIf_stop hb)

/-- The test of B T3 (46_branch.md rule R305): conditions 1110 and 1111 are other instructions. -/
theorem cond_high {cond : BitVec 4} (h : 14 ≤ cond.toNat) : (cond.extractLsb' 1 3 == 7) = true := by
  revert cond; decide

/-- Settles O34: in each of these handlers the test of rule R116 comes first. The operands it looks at are made variables, so that
the test stands in the handler as written, and then meet it. -/
theorem outsideTheSubset : Obligations.OutsideTheSubset := by
  intro s
  refine ⟨fun fc => ?_, fun sgn cond imm6 j1 j2 imm11 hc => ?_, fun i1 setS rd rm imm3 imm8 imm2 ty => ?_,
    fun cond u rn rt rm imm12 imm5 ty => ?_, fun rn rt imm8 => ?_, fun u rn rm imm12 imm8 imm2 => ?_⟩
  · generalize hm : (0 : BitVec 4) = mask
    exact outsideSubset_of_test rfl (by subst hm; rfl)
  · exact outsideSubset_of_test rfl (cond_high hc)
  · generalize hn : (15 : BitVec 4) = rn
    and_intros <;> exact outsideSubset_of_test rfl (by subst hn; rfl)
  · generalize hp : false = p
    generalize hw : true = w
    and_intros <;> exact outsideSubset_of_test rfl (by subst hp hw; rfl)
  · generalize hp : true = p
    generalize hw : false = w
    and_intros <;> exact outsideSubset_of_test rfl (by subst hp hw; rfl)
  · generalize ht : (15 : BitVec 4) = rt
    and_intros <;> exact outsideSubset_of_test rfl (by subst ht; rfl)

end Machine

end Sys2Proof
end

section
/-! Proofs of the statements about the pure operand arithmetic: the adder (40_primitives.md rule R140), the shifter (R132, R150)
and the immediate expansions (30_encoding.md rules R105 to R107). -/

namespace Sys2Proof.Machine

/-! ## The adder (R140) -/

section Adder

variable (x y : Word) (c : Bool)

theorem addWithCarry_result_toNat :
    (addWithCarry x y c).result.toNat = (x.toNat + y.toNat + c.toNat) % 2 ^ 32 :=
  BitVec.toNat_ofNat ..

theorem addWithCarry_carry_iff : (addWithCarry x y c).carry = true ↔ 2 ^ 32 ≤ x.toNat + y.toNat + c.toNat :=
  decide_eq_true_iff

theorem addWithCarry_overflow_iff_msb :
    (addWithCarry x y c).overflow = true ↔ x.msb = y.msb ∧ (addWithCarry x y c).result.msb ≠ x.msb := by
  simp [addWithCarry]

/-- A signed value is the unsigned one less 2^32 where the sign is set. The sum of two such values and a carry leaves the signed
range on the side of their common sign, and then only. -/
theorem addWithCarry_overflow_iff_toInt :
    (addWithCarry x y c).overflow = true ↔ (addWithCarry x y c).result.toInt ≠ x.toInt + y.toInt + c.toNat := by
  have hr := addWithCarry_result_toNat x y c
  have hc : c.toNat ≤ 1 := c.toNat_le
  rw [addWithCarry_overflow_iff_msb]
  generalize (addWithCarry x y c).result = r at hr ⊢
  simp only [BitVec.toInt_eq_toNat_cond, BitVec.msb_eq_decide, decide_eq_decide, ne_eq]
  omega

end Adder

/-- Settles O47: the sum is taken in the natural numbers; that the two tests of the overflow agree is the lemma above. -/
theorem adderResult : Obligations.AdderResult := fun x y c =>
  ⟨addWithCarry_result_toNat x y c, addWithCarry_carry_iff x y c, addWithCarry_overflow_iff_msb x y c,
    addWithCarry_overflow_iff_toInt x y c⟩

/-! ## The shifter (R132, R150) -/

/-- The rotation of rule R132 is the library's. -/
theorem rotateRight_eq (x : Word) (n : Nat) : rotateRight x n = x.rotateRight n := by
  simp only [rotateRight, BitVec.rotateRight_def]
  split
  · next h => simp [h]
  · rfl

section Shifter

variable (x : Word) (c : Bool) {n : Nat}

theorem shiftC_rrx : shiftC x .rrx n c = (BitVec.ofBool c ++ x.extractLsb' 1 31, x.getLsbD 0) := by
  refine Prod.ext (BitVec.eq_of_getLsbD_eq fun i hi => Eq.trans ?_ BitVec.getLsbD_append.symm) rfl
  have top : (0x80000000 : Word) = BitVec.twoPow 32 31 := rfl
  by_cases h : i < 31
  · have : 31 ≠ i := by omega
    cases c <;> simp [shiftC, top, h, this]
  · obtain rfl : i = 31 := by omega
    cases c <;> simp [shiftC, top]

theorem shiftC_zero {ty : SRType} (h : ty ≠ .rrx) : shiftC x ty 0 c = (x, c) := by
  simp [shiftC, h]

/-- Bit 32 of the wide shifted value is the bit of `x` that left it last. -/
theorem shiftC_lsl (h : 0 < n) : shiftC x .lsl n c = (x <<< n, decide (n ≤ 32) && x.getLsbD (32 - n)) := by
  have h0 : n ≠ 0 := by omega
  by_cases hn : n ≤ 32
  · have wide : BitVec.ofNat 32 (x.toNat <<< n) = x <<< n := BitVec.eq_of_toNat_eq (by simp)
    simp [shiftC, h0, hn, wide, BitVec.getLsbD]
  · simp [shiftC, h0, hn, BitVec.shiftLeft_eq_zero (x := x) (n := n) (by omega)]

theorem shiftC_lsr (h : 0 < n) : shiftC x .lsr n c = (x >>> n, x.getLsbD (n - 1)) := by
  have h0 : n ≠ 0 := by omega
  by_cases hn : n ≤ 32
  · simp [shiftC, h0, hn]
  · simp [shiftC, h0, hn, BitVec.ushiftRight_eq_zero (x := x) (n := n) (by omega), BitVec.getLsbD_of_ge x (n - 1) (by omega)]

theorem getElem_ones {i : Nat} (h : i < 32) : (0xffffffff#32)[i] = true := BitVec.getElem_allOnes i h

/-- The arithmetic shift is the logical one with copies of the sign above it. -/
theorem sshiftRight_eq_or (h : n < 32) :
    x.sshiftRight n = if x.msb then x >>> n ||| 0xffffffff#32 <<< (32 - n) else x >>> n := by
  split
  · next hs =>
    ext i hi
    by_cases hi' : n + i < 32
    · have : i < 32 - n := by omega
      simp [BitVec.getElem_sshiftRight, hi', this]
    · have : ¬ i < 32 - n := by omega
      simp [BitVec.getElem_sshiftRight, getElem_ones, hs, hi', this]
  · next hs => exact BitVec.sshiftRight_eq_of_msb_false (by simpa using hs)

/-- From 32 on nothing but copies of the sign is left. -/
theorem sshiftRight_eq_sign (h : 32 ≤ n) : x.sshiftRight n = if x.msb then 0xffffffff else 0 := by
  ext i hi
  have : ¬ n + i < 32 := by omega
  cases hs : x.msb <;> simp [BitVec.getElem_sshiftRight, getElem_ones, hs, this]

theorem shiftC_asr (h : 0 < n) :
    shiftC x .asr n c = (x.sshiftRight n, if n < 32 then x.getLsbD (n - 1) else x.msb) := by
  have h0 : n ≠ 0 := by omega
  by_cases hn : n < 32
  · simp [shiftC, h0, hn, sshiftRight_eq_or x hn]
  · simp [shiftC, h0, hn, sshiftRight_eq_sign x (Nat.le_of_not_lt hn)]

theorem shiftC_ror (h : 0 < n) :
    shiftC x .ror n c = (x.rotateRight (n % 32), (x.rotateRight (n % 32)).msb) := by
  have h0 : n ≠ 0 := by omega
  simp [shiftC, h0, rotateRight_eq]

end Shifter

/-! ## Immediate expansion (R105 to R107) -/

theorem decodeImmShift_table (imm5 : BitVec 5) :
    decodeImmShift 0 imm5 = (.lsl, imm5.toNat) ∧ decodeImmShift 1 imm5 = (.lsr, if imm5 = 0 then 32 else imm5.toNat) ∧
    decodeImmShift 2 imm5 = (.asr, if imm5 = 0 then 32 else imm5.toNat) ∧
    decodeImmShift 3 imm5 = if imm5 = 0 then (.rrx, 1) else (.ror, imm5.toNat) :=
  ⟨rfl, rfl, rfl, rfl⟩

theorem armExpandImmC_append (rot : BitVec 4) (b : BitVec 8) (c : Bool) :
    armExpandImmC (rot ++ b) c = shiftC (b.setWidth 32) .ror (2 * rot.toNat) c := by
  rw [armExpandImmC, BitVec.extractLsb'_append_eq_left, BitVec.extractLsb'_append_eq_right]

/-- Without a rotation the carry is kept, although the shifter is asked for ROR. -/
theorem armExpandImmC_eq (rot : BitVec 4) (b : BitVec 8) (c : Bool) :
    armExpandImmC (rot ++ b) c =
      ((b.setWidth 32).rotateRight (2 * rot.toNat),
        if rot = 0 then c else ((b.setWidth 32).rotateRight (2 * rot.toNat)).msb) := by
  rw [armExpandImmC_append]
  by_cases h : rot = 0
  · subst h
    simp [shiftC_zero, BitVec.rotateRight_def]
  · have pos : 0 < rot.toNat := (BitVec.toNat_pos rot).2 ((BitVec.pos_iff_ne_zero rot).2 h)
    have lt := rot.isLt
    rw [shiftC_ror _ _ (by omega), Nat.mod_eq_of_lt (by omega), if_neg h]

/-- The fields of a Thumb immediate below the rotated ones: two bits `00`, two bits that select the pattern, the byte. -/
theorem extractLsb'_nibble_append_byte (q : BitVec 4) (b : BitVec 8) :
    (q ++ b).extractLsb' 10 2 = q.extractLsb' 2 2 ∧ (q ++ b).extractLsb' 8 2 = q.extractLsb' 0 2 ∧
    (q ++ b).extractLsb' 0 8 = b :=
  ⟨BitVec.extractLsb'_append_eq_of_le (by omega), BitVec.extractLsb'_append_eq_of_le (by omega),
    BitVec.extractLsb'_append_eq_right⟩

/-- The patterns without a rotation: the upper nibble has `00` above the two bits that select one. -/
theorem thumbExpandImmC_patterns (b : BitVec 8) (c : Bool) :
    thumbExpandImmC (0#4 ++ b) c = some (0#24 ++ b, c) ∧
    thumbExpandImmC (1#4 ++ b) c = (if b = 0 then none else some (0#8 ++ b ++ 0#8 ++ b, c)) ∧
    thumbExpandImmC (2#4 ++ b) c = (if b = 0 then none else some (b ++ 0#8 ++ b ++ 0#8, c)) ∧
    thumbExpandImmC (3#4 ++ b) c = (if b = 0 then none else some (b ++ b ++ b ++ b, c)) := by
  have bare : b.setWidth 32 = 0#24 ++ b := BitVec.setWidth_eq_append (by omega)
  and_intros <;> simp [thumbExpandImmC, extractLsb'_nibble_append_byte, bare]

/-- A rotated Thumb immediate: the upper two bits of the amount are not `00`, and the byte's top bit is 1. -/
theorem thumbExpandImmC_rotated {rot : BitVec 5} (b : BitVec 7) (c : Bool) (h : 8 ≤ rot.toNat) :
    thumbExpandImmC (rot ++ b) c =
      some ((0#24 ++ 1#1 ++ b).rotateRight rot.toNat, ((0#24 ++ 1#1 ++ b).rotateRight rot.toNat : Word).msb) := by
  have high : (rot ++ b).extractLsb' 10 2 ≠ 0 := by
    rw [BitVec.extractLsb'_append_eq_of_le (by omega)]
    revert rot; decide
  have wide : (1#1 ++ b).setWidth 32 = 0#24 ++ 1#1 ++ b := by
    rw [BitVec.append_assoc, BitVec.setWidth_eq_append (by omega)]
  rw [thumbExpandImmC, if_neg high, BitVec.extractLsb'_append_eq_left, BitVec.extractLsb'_append_eq_right, wide,
    shiftC_ror _ _ (by omega), Nat.mod_eq_of_lt rot.isLt]

/-- Settles O58: the shifter case by case, then the three expansions, of which those with a rotation ask the shifter for ROR. -/
theorem shifterAndExpansions : Obligations.ShifterAndExpansions :=
  ⟨fun x c _ => ⟨shiftC_rrx x c, fun _ => shiftC_zero x c, fun h =>
      ⟨shiftC_lsl x c h, shiftC_lsr x c h, shiftC_asr x c h, shiftC_ror x c h⟩⟩,
    decodeImmShift_table, armExpandImmC_eq, thumbExpandImmC_patterns, fun _ b c h => thumbExpandImmC_rotated b c h⟩

end Sys2Proof.Machine
end

section
/-! Proofs of the statements about conditions and IT (41_condition_it.md rules R171, R173, R175, R180): the table of the sixteen
conditions, which sessions start and how they end, and the instruction that starts one. -/

namespace Sys2Proof.Machine

/-! ## Conditions (R175) -/

theorem conditionPassed_of_even {cond : BitVec 4} (cpsr : Word) (h : cond.getLsbD 0 = false) :
    conditionPassed cond cpsr =
      condPredicate (flagN cpsr) (flagZ cpsr) (flagC cpsr) (flagV cpsr) (cond.toNat / 2) := by
  rw [conditionPassed, h, Bool.false_and]
  rfl

theorem conditionPassed_of_odd {cond : BitVec 4} (cpsr : Word) (h : cond.getLsbD 0 = true) (always : cond ≠ 15) :
    conditionPassed cond cpsr =
      !condPredicate (flagN cpsr) (flagZ cpsr) (flagC cpsr) (flagV cpsr) (cond.toNat / 2) := by
  rw [conditionPassed, h, bne_iff_ne.2 always]
  rfl

/-- The inversion leaves out `1111`, whose predicate is that of `1110`. -/
theorem conditionPassed_always (cpsr : Word) : conditionPassed 15 cpsr = true := rfl

/-- Settles O48: each even condition is its predicate and each odd one its inverse, but for `1111`. -/
theorem conditionCodes : Obligations.ConditionCodes := by
  intro cpsr n z c v passes
  have even : ∀ k : BitVec 4, k.getLsbD 0 = false → passes k = condPredicate n z c v (k.toNat / 2) :=
    fun _ => conditionPassed_of_even cpsr
  have odd : ∀ k : BitVec 4, k.getLsbD 0 = true → k ≠ 15 → passes k = !condPredicate n z c v (k.toNat / 2) :=
    fun _ => conditionPassed_of_odd cpsr
  have ls : passes 9 = (!c || z) := (odd 9 rfl nofun).trans (by simp [condPredicate])
  have gt : passes 12 = (!z && n == v) := (even 12 rfl).trans (Bool.and_comm _ _)
  have le : passes 13 = (z || n != v) := (odd 13 rfl nofun).trans (by simp [condPredicate, Bool.or_comm, bne])
  exact ⟨even 0 rfl, odd 1 rfl nofun, even 2 rfl, odd 3 rfl nofun, even 4 rfl, odd 5 rfl nofun, even 6 rfl, odd 7 rfl nofun,
    even 8 rfl, ls, even 10 rfl, odd 11 rfl nofun, gt, le, even 14 rfl, conditionPassed_always cpsr⟩

/-! ## The start of a session (R171) -/

/-- The operands from which no session starts. -/
def NoSession (firstcond mask : BitVec 4) : Prop :=
  mask = 0 ∨ firstcond = 15 ∨ (firstcond = 14 ∧ trailingZeros mask ≠ 3)

/-- A window of one instruction is a mask with three trailing zeros. -/
theorem windowSize_ne_one_iff {mask : BitVec 4} : 4 - trailingZeros mask ≠ 1 ↔ trailingZeros mask ≠ 3 := by omega

theorem initIT_eq_none {byte : BitVec 8} (h : NoSession (byte.extractLsb' 4 4) (byte.extractLsb' 0 4)) :
    initIT byte = none := by
  obtain hm | hf | ⟨ha, hw⟩ := h
  · rw [initIT, if_pos ((three_lt_trailingZeros_iff _).2 hm)]
  · simp only [initIT, hf, if_true, ite_self]
  · simp only [initIT, if_pos (And.intro ha (windowSize_ne_one_iff.2 hw)), ite_self]

theorem initIT_eq_some {byte : BitVec 8} (h : ¬ NoSession (byte.extractLsb' 4 4) (byte.extractLsb' 0 4)) :
    initIT byte = some { state := byte, remaining := 4 - trailingZeros (byte.extractLsb' 0 4) } := by
  obtain ⟨hm, hf, ha⟩ : _ ∧ _ ∧ _ := by simpa only [NoSession, not_or] using h
  rw [initIT, if_neg (mt (three_lt_trailingZeros_iff _).1 hm), if_neg hf, if_neg fun e => ha ⟨e.1, windowSize_ne_one_iff.1 e.2⟩]

theorem initIT_eq_none_iff {byte : BitVec 8} :
    initIT byte = none ↔ NoSession (byte.extractLsb' 4 4) (byte.extractLsb' 0 4) :=
  ⟨fun h => by_contra fun hn => by simp [initIT_eq_some hn] at h, initIT_eq_none⟩

theorem eq_of_initIT_eq_some {byte : BitVec 8} {x : ITSession} (h : initIT byte = some x) :
    x = { state := byte, remaining := 4 - trailingZeros (byte.extractLsb' 0 4) } := by
  have starts : ¬ NoSession (byte.extractLsb' 4 4) (byte.extractLsb' 0 4) := fun hn => by simp [initIT_eq_none hn] at h
  exact Option.some.inj (h.symm.trans (initIT_eq_some starts))

/-! ## The advances of a session (R173) -/

theorem itAdvance_eq {x : ITSession} (h : 0 < x.remaining) :
    itAdvance x = if x.remaining = 1 then { state := 0, remaining := 0 }
      else { state := x.state &&& 0xe0 ||| x.state <<< 1 &&& 0x1f, remaining := x.remaining - 1 } := by
  have last : x.remaining - 1 = 0 ↔ x.remaining = 1 := by omega
  simp only [itAdvance, last]

@[simp] theorem itAdvance_remaining (x : ITSession) : (itAdvance x).remaining = x.remaining - 1 := by
  rw [itAdvance]
  split
  · exact Eq.symm ‹_›
  · rfl

theorem iterate_itAdvance_remaining (x : ITSession) (k : Nat) : (itAdvance^[k] x).remaining = x.remaining - k := by
  induction k with
  | zero => rfl
  | succ k ih => rw [Function.iterate_succ_apply', itAdvance_remaining, ih, Nat.sub_sub]

/-- A well-formed session is empty after as many advances as it has instructions left, and not before. -/
theorem iterate_itAdvance_state_eq_zero {x : ITSession} (h : ITSession.wf x) {k : Nat} (hk : k ≤ x.remaining) :
    (itAdvance^[k] x).state = 0 ↔ k = x.remaining := by
  have wf : ITSession.wf (itAdvance^[k] x) := Function.Iterate.rec ITSession.wf h (fun _ => itAdvance_wf) k
  rw [← wf.1, iterate_itAdvance_remaining]
  omega

/-- Settles O49: a session starts well formed, so it is empty when its count, one less at each advance, is 0. -/
theorem itSessionLife : Obligations.ITSessionLife :=
  ⟨fun _ => ⟨initIT_eq_none_iff, fun x h => ⟨eq_of_initIT_eq_some h, fun k hk =>
      ⟨iterate_itAdvance_remaining x k, iterate_itAdvance_state_eq_zero (initIT_wf h) hk⟩⟩⟩,
    fun _ => itAdvance_eq⟩

/-! ## The instruction IT (R180) -/

/-- The byte of an IT instruction has the first condition above the mask. -/
theorem initIT_append {firstcond mask : BitVec 4} (h : ¬ NoSession firstcond mask) :
    initIT (firstcond ++ mask) = some { state := firstcond ++ mask, remaining := 4 - trailingZeros mask } := by
  have hm : (firstcond ++ mask).extractLsb' 0 4 = mask := BitVec.extractLsb'_append_eq_right
  have hf : (firstcond ++ mask).extractLsb' 4 4 = firstcond := BitVec.extractLsb'_append_eq_left
  rw [initIT_eq_some (by rwa [hf, hm]), hm]

/-- Outside an IT block an IT whose session starts completes with that session and leaves the rest alone. -/
theorem exec_itT1_of_initIT {s : State} {firstcond mask : BitVec 4} {x : ITSession} (outside : s.inITBlock = false)
    (hm : mask ≠ 0) (hx : initIT (firstcond ++ mask) = some x) :
    exec (.itT1 firstcond mask) s = .next { s with it := x, fault := none } := by
  show execItT1 firstcond mask s = _
  refine runHandler_ok (t := { s with it := x }) ?_
  rw [notInSubsetIf_pass (beq_false_of_ne hm), unpredictableInIT_pass outside, hx]
  rfl

/-- Settles O30: the operands are such that a session starts, and starting it is all the handler does. -/
theorem ifThen : Obligations.IfThen := by
  intro s firstcond mask hm outside hf one
  have starts : ¬ NoSession firstcond mask := by
    rintro (h | h | ⟨always, window⟩)
    · exact hm h
    · exact hf h
    · exact window (by rw [one always]; rfl)
  exact exec_itT1_of_initIT outside hm (initIT_append starts)

end Sys2Proof.Machine
end

section
/-! Proofs of the statements about the stack (42_stack.md rules R200 to R205): PUSH, POP, VPUSH and VPOP complete, each the test of
its rule in front of one transfer of a list, and a POP after a PUSH of the same list gives the registers back. -/

namespace Sys2Proof.Machine

/-! ## A test in front of a transfer -/

theorem pushDone_of_exec {i : Instr} {s : State} {b : Bool} {regs : BitVec 16} (h : s.served) (hb : b = false)
    (e : exec i s = runHandler (unpredictableIf b >>= fun _ => push regs) s) : PushDone i s regs := by
  obtain ⟨t, ht, w⟩ := push_spec h regs
  exact storeManyDone_of e ((unpredictableIf_pass hb).trans ht) w

theorem popDone_of_exec {i : Instr} {s : State} {b : Bool} {regs : BitVec 16} {vals : Nat → Word} (h : s.served)
    (hm : WordsMapped s (s.getCore 13) (bitCount regs) vals) (hb : b = false)
    (e : exec i s = runHandler (unpredictableIf b >>= fun _ => pop regs) s) : PopDone i s regs vals := by
  obtain ⟨t, ht, w⟩ := pop_spec h regs vals hm
  exact loadManyDone_of e ((unpredictableIf_pass hb).trans ht) w

theorem vpushDone_of_exec {i : Instr} {s : State} {b : Bool} {l : ExtList} (h : s.served) (hl : l.count ≤ 32) (hb : b = false)
    (e : exec i s = runHandler (unpredictableIf b >>= fun _ => vpush l) s) : VPushDone i s l := by
  obtain ⟨t, ht, items, mem, sp, core, status, ext, block⟩ := vpush_spec h l hl
  exact completes_of e ((unpredictableIf_pass hb).trans ht) block ⟨items, mem, sp, core, status, ext⟩

/-- The items from `a` on, one for each register of an extension list, are mapped and hold these values (R204). -/
def ItemsMapped (s : State) (a : Word) (l : ExtList) (vals : Nat → DWord) : Prop :=
  ∀ k < l.count, Memory.readLE s.mem (a + BitVec.ofNat 32 (l.size * k)) l.size = some (vals k)

theorem vpopDone_of_exec {i : Instr} {s : State} {b : Bool} {l : ExtList} {vals : Nat → DWord} (h : s.served)
    (hm : ItemsMapped s (s.getCore 13) l vals) (hl : l.first + l.count ≤ 32) (hb : b = false)
    (e : exec i s = runHandler (unpredictableIf b >>= fun _ => vpop l) s) : VPopDone i s l vals := by
  obtain ⟨t, ht, loaded, ext, sp, core, status, mem, block⟩ := vpop_spec h l vals hl hm
  exact completes_of e ((unpredictableIf_pass hb).trans ht) block ⟨loaded, ext, sp, core, status, fun x => by simp [mem]⟩

/-! ## PUSH and POP -/

/-- Settles O19: every encoding is the test of its rule, which the list passes, and then the stores. -/
theorem pushes : Obligations.Pushes := fun _ h =>
  ⟨fun _ _ nonempty => pushDone_of_exec h (beq_false_of_ne nonempty) rfl,
    fun _ _ sp => pushDone_of_exec h (beq_false_of_ne sp) rfl,
    fun _ _ nonempty => pushDone_of_exec h (beq_false_of_ne nonempty) rfl,
    fun _ _ two => pushDone_of_exec h (decide_eq_false (Nat.not_lt.2 two)) rfl,
    fun _ sp pc => pushDone_of_exec h (Bool.or_eq_false_iff.2 ⟨beq_false_of_ne sp, beq_false_of_ne pc⟩) rfl⟩

/-- The test of rule R202 on a POP of the PC: it stands outside an IT block or last in it. -/
theorem pcLoad_allowed {p : Bool} {s : State} (last : p = true → s.inITBlock = true → s.lastInITBlock = true) :
    (p && (s.inITBlock && !s.lastInITBlock)) = false := by
  cases p with
  | false => rfl
  | true =>
    cases hi : s.inITBlock with
    | false => rfl
    | true => simp [last rfl hi]

/-- Settles O20: every encoding is the test of its rule, which list, IT state and variant pass, and then the loads. -/
theorem pops : Obligations.Pops := by
  intro s h vals
  refine ⟨fun cond regs nonempty old hm => ?_, fun cond rt sp hm => ?_, fun p regs nonempty last hm => ?_,
    fun p m regs two notBoth last hm => ?_, fun rt sp last hm => ?_⟩
  · refine popDone_of_exec h hm (b := bitCount regs == 0 || regs.getLsbD 13 && decide (7 ≤ s.arch.version)) ?_ rfl
    simpa [nonempty] using old
  · exact popDone_of_exec h (by rwa [bitCount_oneReg]) (beq_false_of_ne sp) rfl
  · exact popDone_of_exec h hm (Bool.or_eq_false_iff.2 ⟨beq_false_of_ne nonempty, pcLoad_allowed last⟩) rfl
  · refine popDone_of_exec h hm (b := decide (bitCount (listPM13 p m regs) < 2) || p && m ||
      p && (s.inITBlock && !s.lastInITBlock)) ?_ rfl
    simp [Nat.not_lt.2 two, notBoth, pcLoad_allowed last]
  · refine popDone_of_exec h (by rwa [bitCount_oneReg])
      (b := rt == 13 || rt == 15 && (s.inITBlock && !s.lastInITBlock)) ?_ rfl
    rw [beq_false_of_ne sp, pcLoad_allowed fun pc => last (by simpa using pc)]
    rfl

/-! ## VPUSH and VPOP -/

/-- The D lists that rule R203 allows. -/
theorem extListDBad_eq_false_iff {imm8 : BitVec 8} {l : ExtList} :
    extListDBad imm8 l = false ↔ imm8.getLsbD 0 = false ∧ 0 < l.count ∧ l.count ≤ 16 ∧ l.first + l.count ≤ 32 := by
  simp [extListDBad, Nat.pos_iff_ne_zero, and_assoc]

/-- The S lists that rule R203 allows. -/
theorem extListSBad_eq_false_iff {l : ExtList} : extListSBad l = false ↔ 0 < l.count ∧ l.first + l.count ≤ 32 := by
  simp [extListSBad, Nat.pos_iff_ne_zero]

theorem VPushOf.done {l : ExtList} {i : Instr} {s : State} (hi : VPushOf l i) (h : s.served) : VPushDone i s l := by
  obtain ⟨c, d, v, n, hi, rfl, ok⟩ | ⟨c, d, v, n, hi, rfl, ok⟩ := hi
  · obtain ⟨-, -, -, hl⟩ := extListDBad_eq_false_iff.1 ok
    obtain rfl | rfl := hi <;> exact vpushDone_of_exec h (by omega) ok rfl
  · obtain ⟨-, hl⟩ := extListSBad_eq_false_iff.1 ok
    obtain rfl | rfl := hi <;> exact vpushDone_of_exec h (by omega) ok rfl

theorem VPopOf.done {l : ExtList} {i : Instr} {s : State} {vals : Nat → DWord} (hi : VPopOf l i) (h : s.served)
    (hm : ItemsMapped s (s.getCore 13) l vals) : VPopDone i s l vals := by
  obtain ⟨c, d, v, n, hi, rfl, ok⟩ | ⟨c, d, v, n, hi, rfl, ok⟩ := hi
  · obtain ⟨-, -, -, hl⟩ := extListDBad_eq_false_iff.1 ok
    obtain rfl | rfl := hi <;> exact vpopDone_of_exec h hm hl ok rfl
  · obtain ⟨-, hl⟩ := extListSBad_eq_false_iff.1 ok
    obtain rfl | rfl := hi <;> exact vpopDone_of_exec h hm hl ok rfl

/-- Settles O21: the operands are those of a VPUSH that rule R203 allows, and every such VPUSH stores its list. -/
theorem extensionPushes : Obligations.ExtensionPushes := by
  intro s h cond d v n
  refine ⟨fun even pos few fits => ?_, fun pos fits => ?_⟩
  · have ok : extListDBad n (extListD d v n) = false := extListDBad_eq_false_iff.2 ⟨even, pos, few, fits⟩
    have completes {i : Instr} hi := VPushOf.done (i := i) (.inl ⟨cond, d, v, n, hi, rfl, ok⟩) h
    exact ⟨completes (.inl rfl), completes (.inr rfl)⟩
  · have ok : extListSBad (extListS d v n) = false := extListSBad_eq_false_iff.2 ⟨pos, fits⟩
    have completes {i : Instr} hi := VPushOf.done (i := i) (.inr ⟨cond, d, v, n, hi, rfl, ok⟩) h
    exact ⟨completes (.inl rfl), completes (.inr rfl)⟩

/-- Settles O22: the operands are those of a VPOP that rule R204 allows, and every such VPOP loads its list. -/
theorem extensionPops : Obligations.ExtensionPops := by
  intro s h cond d v n vals
  refine ⟨fun even pos few fits hm => ?_, fun pos fits hm => ?_⟩
  · have ok : extListDBad n (extListD d v n) = false := extListDBad_eq_false_iff.2 ⟨even, pos, few, fits⟩
    have completes {i : Instr} hi := VPopOf.done (i := i) (.inl ⟨cond, d, v, n, hi, rfl, ok⟩) h hm
    exact ⟨completes (.inl rfl), completes (.inr rfl)⟩
  · have ok : extListSBad (extListS d v n) = false := extListSBad_eq_false_iff.2 ⟨pos, fits⟩
    have completes {i : Instr} hi := VPopOf.done (i := i) (.inr ⟨cond, d, v, n, hi, rfl, ok⟩) h hm
    exact ⟨completes (.inl rfl), completes (.inr rfl)⟩

/-! ## POP after PUSH (R205) -/

theorem ne_of_mem_regNumbers {regs : BitVec 16} {r n : RegNum} (hr : r ∈ regNumbers regs) (hn : regs.getLsbD n.toNat = false) :
    r ≠ n := by
  rintro rfl
  exact Bool.false_ne_true (hn.symm.trans (mem_regNumbers.1 hr))

theorem ne_of_getLsbD_oneReg {rt k : RegNum} (h : (oneReg rt).getLsbD k.toNat = false) : rt ≠ k :=
  ne_of_mem_regNumbers (by simp [regNumbers_oneReg]) h

theorem PushOf.done {regs : BitVec 16} {i : Instr} {s : State} (hi : PushOf regs i) (h : s.served)
    (nonempty : bitCount regs ≠ 0) (sp : regs.getLsbD 13 = false) (pc : regs.getLsbD 15 = false) : PushDone i s regs := by
  obtain ⟨a1, a2, t1, t2, t3⟩ := pushes s h
  obtain ⟨c, rfl⟩ | ⟨c, rt, rfl, rfl⟩ | ⟨m, l, rfl, rfl⟩ | ⟨m, l, rfl, rfl, two⟩ | ⟨rt, rfl, rfl⟩ := hi
  · exact a1 c regs nonempty
  · exact a2 c rt (ne_of_getLsbD_oneReg sp)
  · exact t1 m l nonempty
  · exact t2 m l two
  · exact t3 rt (ne_of_getLsbD_oneReg sp) (ne_of_getLsbD_oneReg pc)

theorem PopOf.done {regs : BitVec 16} {i : Instr} {s : State} {vals : Nat → Word} (hi : PopOf regs i) (h : s.served)
    (nonempty : bitCount regs ≠ 0) (sp : regs.getLsbD 13 = false) (pc : regs.getLsbD 15 = false)
    (hm : WordsMapped s (s.getCore 13) (bitCount regs) vals) : PopDone i s regs vals := by
  obtain ⟨a1, a2, t1, t2, t3⟩ := pops s h vals
  obtain ⟨c, rfl⟩ | ⟨c, rt, rfl, rfl⟩ | ⟨l, rfl, rfl⟩ | ⟨m, l, rfl, rfl, two⟩ | ⟨rt, rfl, rfl⟩ := hi
  · exact a1 c regs nonempty (fun listed => absurd (sp.symm.trans listed) Bool.false_ne_true) hm
  · exact a2 c rt (ne_of_getLsbD_oneReg sp) (by rwa [bitCount_oneReg] at hm)
  · exact t1 false l nonempty nofun hm
  · exact t2 false m l two rfl nofun hm
  · exact t3 rt (ne_of_getLsbD_oneReg sp) (fun is15 => absurd is15 (ne_of_getLsbD_oneReg pc)) (by rwa [bitCount_oneReg] at hm)

/-- The value of the `k`-th register of a list. -/
def State.listValue (s : State) (regs : BitVec 16) (k : Nat) : Word := s.getCore ((regNumbers regs).getD k 0)

theorem State.listValue_eq (s : State) {regs : BitVec 16} {k : Nat} (hk : k < (regNumbers regs).length) :
    s.listValue regs k = s.getCore (regNumbers regs)[k] := by
  rw [listValue, List.getD_eq_getElem _ _ hk]

/-- What a PUSH of a list without SP and PC leaves in memory: no word is UNKNOWN, and none is the PC read value (R201). -/
theorem wordsMapped_of_pushed {s t u : State} {a : Word} {regs : BitVec 16} {unknown : RegNum → Prop} [DecidablePred unknown]
    (sp : regs.getLsbD 13 = false) (pc : regs.getLsbD 15 = false) (hmem : u.mem = t.mem)
    (w : WordsAt t a ((regNumbers regs).map fun r => if r = 13 ∧ unknown r then none else some (s.operand r))) :
    WordsMapped u a (bitCount regs) (s.listValue regs) := by
  intro k hk
  have hk' : k < (regNumbers regs).length := by rwa [regNumbers_length]
  have not13 : (regNumbers regs)[k] ≠ 13 := ne_of_mem_regNumbers (List.getElem_mem hk') sp
  have not15 : (regNumbers regs)[k] ≠ 15 := ne_of_mem_regNumbers (List.getElem_mem hk') pc
  have word := w k (by simpa using hk')
  rw [List.getElem_map, if_neg fun both => not13 both.1, State.operand, if_neg not15, ← State.listValue_eq s hk',
    ← hmem] at word
  exact word

theorem core_restored {s s1 t : State} {regs : BitVec 16} {i j : Instr} (hs : s.served) (ht : t.served) (hi : PushOf regs i)
    (hj : PopOf regs j) (nonempty : bitCount regs ≠ 0) (sp : regs.getLsbD 13 = false) (pc : regs.getLsbD 15 = false)
    (ei : exec i s = .next s1) (hmem : t.mem = s1.mem) (hsp : t.getCore 13 = s1.getCore 13) :
    ∃ u, exec j t = .next u ∧ u.fault = none ∧ u.getCore 13 = s.getCore 13 ∧
      ∀ k, regs.getLsbD k.toNat = true → u.getCore k = s.getCore k := by
  obtain ⟨_, ei', -, -, words, -, lowered, -⟩ := hi.done hs nonempty sp pc
  obtain rfl : _ = s1 := Host.Outcome.next.inj (ei'.symm.trans ei)
  have bottom : t.getCore 13 = s.getCore 13 - listBytes regs := hsp.trans (lowered rfl)
  have hm : WordsMapped t (t.getCore 13) (bitCount regs) (s.listValue regs) := by
    rw [bottom]
    exact wordsMapped_of_pushed sp pc hmem words
  obtain ⟨u, ej, hf, -, loaded, -, raised, -⟩ := hj.done ht nonempty sp pc hm
  refine ⟨u, ej, hf, ?_, fun r hr => ?_⟩
  · rw [raised rfl sp, bottom, BitVec.sub_add_cancel]
  · have mem := mem_regNumbers.2 hr
    obtain ⟨k, hk, rfl⟩ := List.getElem_of_mem mem
    have value := loaded k hk fun both => ne_of_mem_regNumbers (n := 13) mem sp both.2
    rwa [if_neg (ne_of_mem_regNumbers (n := 15) mem pc), State.listValue_eq s hk] at value

/-- The value of the `k`-th register of an extension list. -/
def State.extListValue (s : State) (l : ExtList) (k : Nat) : DWord := s.regValue (l.reg (l.numbers.getD k 0))

theorem State.extListValue_eq (s : State) {l : ExtList} {k : Nat} (hk : k < l.numbers.length) :
    s.extListValue l k = s.regValue (l.reg l.numbers[k]) := by
  rw [extListValue, List.getD_eq_getElem _ _ hk]

theorem ext_restored {s s1 t : State} {l : ExtList} {i j : Instr} (hs : s.served) (ht : t.served) (hi : VPushOf l i)
    (hj : VPopOf l j) (ei : exec i s = .next s1) (hmem : t.mem = s1.mem) (hsp : t.getCore 13 = s1.getCore 13) :
    ∃ u, exec j t = .next u ∧ u.fault = none ∧ u.getCore 13 = s.getCore 13 ∧
      ∀ n ∈ l.numbers, u.regValue (l.reg n) = s.regValue (l.reg n) := by
  obtain ⟨_, ei', -, -, items, -, lowered, -⟩ := hi.done hs
  obtain rfl : _ = s1 := Host.Outcome.next.inj (ei'.symm.trans ei)
  have bottom : t.getCore 13 = s.getCore 13 - l.bytes := hsp.trans lowered
  have hm : ItemsMapped t (t.getCore 13) l (s.extListValue l) := by
    intro k hk
    have hk' : k < l.numbers.length := by rwa [ExtList.numbers_length]
    rw [bottom, hmem, items k hk', State.extListValue_eq s hk']
  obtain ⟨u, ej, hf, -, loaded, -, raised, -⟩ := hj.done ht hm
  refine ⟨u, ej, hf, ?_, fun n hn => ?_⟩
  · rw [raised, bottom, BitVec.sub_add_cancel]
  · obtain ⟨k, hk, rfl⟩ := List.getElem_of_mem hn
    rw [loaded k hk, State.extListValue_eq s hk]

/-- Settles O54: what the PUSH left from the new SP up is what the POP loads, and SP goes up by as much as it went down. -/
theorem pushThenPop : Obligations.PushThenPop :=
  ⟨fun _ _ _ _ _ _ => core_restored, fun _ _ _ _ _ _ => ext_restored⟩

end Sys2Proof.Machine
end

section
/-! Proofs of the statements about arithmetic and compares (43_dp_arith.md rules R220 to R237): each instruction reads its operands,
passes the tests of its rule and runs one of the two templates of rule R221. A lemma for each operand format says so once. -/

namespace Sys2Proof.Machine

section Formats

variable {i : Instr} {s : State} {g : Handler Unit} {b : Bool} {d : RegNum} {f : Bool}

/-! ## Instructions that come down to a template -/

theorem resultDone_of_dataProc (h : s.served) (op : AluOp) (n : Option RegNum) (o : Operand2)
    (e : exec i s = runHandler g s) (run : g s = dataProc op d n o f s) :
    ResultDone i s d f (op.eval (firstIn s n) (o.valueIn s).1 s.carry (o.valueIn s).2) := by
  obtain ⟨t, ht, w⟩ := dataProc_spec h op d n o f
  exact resultDone_of e (run.trans ht) w

theorem flagsDone_of_compare (h : s.served) (op : AluOp) (n : RegNum) (o : Operand2)
    (e : exec i s = runHandler g s) (run : g s = compare op n o s) :
    FlagsDone i s (op.eval (s.operand n) (o.valueIn s).1 s.carry (o.valueIn s).2) := by
  obtain ⟨t, ht, w⟩ := compare_spec h op n o
  exact flagsDone_of e (run.trans ht) w

/-! ## Registers as they are: 16-bit Thumb -/

theorem valueIn_plainReg (s : State) (m : RegNum) : (plainReg m).valueIn s = (s.operand m, s.carry) := shiftC_zero _ _ nofun

theorem resultDone_of_plainReg (h : s.served) (op : AluOp) (n : Option RegNum) (m : RegNum)
    (e : exec i s = runHandler g s) (run : g s = dataProc op d n (plainReg m) f s) :
    ResultDone i s d f (op.eval (firstIn s n) (s.operand m) s.carry s.carry) := by
  simpa only [valueIn_plainReg] using resultDone_of_dataProc h op n (plainReg m) e run

theorem flagsDone_of_plainReg (h : s.served) (op : AluOp) (n m : RegNum)
    (e : exec i s = runHandler g s) (run : g s = compare op n (plainReg m) s) :
    FlagsDone i s (op.eval (s.operand n) (s.operand m) s.carry s.carry) := by
  simpa only [valueIn_plainReg] using flagsDone_of_compare h op n (plainReg m) e run

/-! ## Expanded immediates (30_encoding.md rules R105, R106) -/

section Arm

variable {imm12 : BitVec 12}

theorem resultDone_of_armImm (h : s.served) (op : AluOp) (n : Option RegNum)
    (e : exec i s = runHandler (armImm imm12 >>= fun o => dataProc op d n o f) s) :
    ResultDone i s d f (op.eval (firstIn s n) (armExpandImmC imm12 s.carry).1 s.carry (armExpandImmC imm12 s.carry).2) :=
  resultDone_of_dataProc h op n (.imm (armExpandImmC imm12 s.carry).1 (armExpandImmC imm12 s.carry).2) e
    (bind_ok (armImm_eq imm12 s))

theorem flagsDone_of_armImm (h : s.served) (op : AluOp) (n : RegNum)
    (e : exec i s = runHandler (armImm imm12 >>= fun o => compare op n o) s) :
    FlagsDone i s (op.eval (s.operand n) (armExpandImmC imm12 s.carry).1 s.carry (armExpandImmC imm12 s.carry).2) :=
  flagsDone_of_compare h op n (.imm (armExpandImmC imm12 s.carry).1 (armExpandImmC imm12 s.carry).2) e
    (bind_ok (armImm_eq imm12 s))

end Arm

section Thumb

variable {i1 : BitVec 1} {imm3 : BitVec 3} {imm8 : BitVec 8} {v : Word × Bool}

theorem thumbImm_pass {k : Operand2 → Handler Unit} (hb : b = false)
    (hv : thumbExpandImmC (i1 ++ imm3 ++ imm8) s.carry = some v) :
    (unpredictableIf b >>= fun _ => thumbImm i1 imm3 imm8 >>= k) s = k (.imm v.1 v.2) s :=
  (unpredictableIf_pass hb).trans (bind_ok (thumbImm_some hv))

theorem resultDone_of_thumbImm (h : s.served) (hv : thumbExpandImmC (i1 ++ imm3 ++ imm8) s.carry = some v) (hb : b = false)
    (op : AluOp) (n : Option RegNum)
    (e : exec i s = runHandler (unpredictableIf b >>= fun _ => thumbImm i1 imm3 imm8 >>= fun o => dataProc op d n o f) s) :
    ResultDone i s d f (op.eval (firstIn s n) v.1 s.carry v.2) :=
  resultDone_of_dataProc h op n (.imm v.1 v.2) e (thumbImm_pass hb hv)

theorem flagsDone_of_thumbImm (h : s.served) (hv : thumbExpandImmC (i1 ++ imm3 ++ imm8) s.carry = some v) (hb : b = false)
    (op : AluOp) (n : RegNum)
    (e : exec i s = runHandler (unpredictableIf b >>= fun _ => thumbImm i1 imm3 imm8 >>= fun o => compare op n o) s) :
    FlagsDone i s (op.eval (s.operand n) v.1 s.carry v.2) :=
  flagsDone_of_compare h op n (.imm v.1 v.2) e (thumbImm_pass hb hv)

end Thumb

end Formats

/-! ## ARM -/

/-- Settles O1: each instruction expands its immediate and runs the template with its operation. -/
theorem armArithmeticImmediate : Obligations.ArmArithmeticImmediate := by
  intro s h cond setS rn rd imm12
  exact ⟨resultDone_of_armImm h .adc (some rn) rfl, resultDone_of_armImm h .add (some rn) rfl,
    resultDone_of_armImm h .sub (some rn) rfl, resultDone_of_armImm h .rsb (some rn) rfl,
    resultDone_of_armImm h .rsc (some rn) rfl⟩

/-- Settles O2: each instruction is the template with its operation and the shifted register. -/
theorem armArithmeticRegister : Obligations.ArmArithmeticRegister := by
  intro s h cond setS rn rd imm5 ty rm
  have completes {i : Instr} (op : AluOp)
      (e : exec i s = runHandler (dataProc op rd (some rn) (shiftedReg rm ty imm5) setS) s) :=
    resultDone_of_dataProc h op (some rn) (shiftedReg rm ty imm5) e rfl
  exact ⟨completes .adc rfl, completes .add rfl, completes .sub rfl, completes .rsb rfl, completes .rsc rfl⟩

/-- Settles O4: a compare is the flag template with the operation of SUB, ADD, AND or EOR. -/
theorem armCompares : Obligations.ArmCompares := by
  intro s h cond rn
  refine ⟨fun imm12 => ?_, fun imm5 ty rm => ?_⟩
  · exact ⟨flagsDone_of_armImm h .sub rn rfl, flagsDone_of_armImm h .add rn rfl, flagsDone_of_armImm h .and rn rfl,
      flagsDone_of_armImm h .eor rn rfl⟩
  · have completes {i : Instr} (op : AluOp) (e : exec i s = runHandler (compare op rn (shiftedReg rm ty imm5)) s) :=
      flagsDone_of_compare h op rn (shiftedReg rm ty imm5) e rfl
    exact ⟨completes .sub rfl, completes .add rfl, completes .and rfl, completes .eor rfl⟩

/-! ## 16-bit Thumb -/

/-- Settles O5: the template runs with `setflags` as rule R179 gives it, on registers or a plain immediate. -/
theorem thumb16Arithmetic : Obligations.Thumb16Arithmetic := by
  intro s h rm rn rd rdn imm3 imm8
  have register {i : Instr} {d n : RegNum} (op : AluOp)
      (e : exec i s = runHandler (flagsOutsideIT >>= dataProc op d (some n) (plainReg (lowReg rm))) s) :=
    resultDone_of_plainReg h op (some n) (lowReg rm) e flagsOutsideIT_pass
  have immediate {i : Instr} {d n : RegNum} {v : Word} (op : AluOp)
      (e : exec i s = runHandler (plainImm v >>= fun o => flagsOutsideIT >>= dataProc op d (some n) o) s) :=
    resultDone_of_dataProc h op (some n) (.imm v s.carry) e ((bind_ok (plainImm_eq v s)).trans flagsOutsideIT_pass)
  exact ⟨⟨register .add rfl, register .sub rfl, immediate .add rfl, immediate .sub rfl, immediate .rsb rfl⟩,
    register .adc rfl, immediate .add rfl, immediate .sub rfl⟩

/-- Settles O7: the flags are written whatever the IT state, and the operands of CMP T2 pass its test. -/
theorem thumb16Compares : Obligations.Thumb16Compares := by
  intro s h
  refine ⟨fun rm rn => ?_, fun rn imm8 => ?_, fun nbit rm rn notBothLow nPC mPC => ?_⟩
  · exact ⟨flagsDone_of_plainReg h .sub _ _ rfl rfl, flagsDone_of_plainReg h .add _ _ rfl rfl,
      flagsDone_of_plainReg h .and _ _ rfl rfl⟩
  · exact flagsDone_of_compare h .sub (lowReg rn) (.imm (imm8.setWidth 32) s.carry) rfl (bind_ok (plainImm_eq _ s))
  · refine flagsDone_of_plainReg h .sub (splitReg nbit rn) rm rfl (unpredictableIf_pass ?_)
    rw [beq_false_of_ne nPC, beq_false_of_ne mPC]
    simpa using notBothLow

/-- Settles O8: no form sets flags; the operands of ADD T2 pass its test. -/
theorem thumbSpAndHighRegisterAdds : Obligations.ThumbSpAndHighRegisterAdds := by
  intro s h
  have immediate {i : Instr} {d : RegNum} {v : Word} (op : AluOp)
      (e : exec i s = runHandler (plainImm v >>= fun o => dataProc op d (some 13) o false) s) :=
    resultDone_of_dataProc h op (some 13) (.imm v s.carry) e (bind_ok (plainImm_eq v s))
  refine ⟨fun rd imm8 => immediate .add rfl, fun imm7 => ⟨immediate .add rfl, immediate .sub rfl⟩, fun dn rm rdn allowed => ?_⟩
  refine resultDone_of_plainReg h .add (some (splitReg dn rdn)) rm rfl (inITNotLast_pass.trans (unpredictableIf_pass ?_))
  refine Bool.or_eq_false_iff.2 ⟨?_, pcLoad_allowed fun pc => (allowed (eq_of_beq pc)).2⟩
  simpa using fun pc => (allowed pc).1

/-! ## 32-bit Thumb -/

/-- Settles O9: the operands pass the tests of the rule, the immediate expands, and the template runs. -/
theorem thumb32Immediate : Obligations.Thumb32Immediate := by
  intro s h i1 setS rn rd imm3 imm8
  refine ⟨fun v hv => ⟨fun hd hn => ?_, fun allowed => ?_, fun hd hn => ?_, fun hd => ?_⟩, fun hn allowed => ?_⟩
  · have ok : (badReg rd || badReg rn) = false := Bool.or_eq_false_iff.2 ⟨hd, hn⟩
    exact ⟨resultDone_of_thumbImm h hv ok .adc (some rn) rfl, resultDone_of_thumbImm h hv ok .rsb (some rn) rfl⟩
  · refine ⟨resultDone_of_thumbImm h hv ?ok .add (some rn) rfl, resultDone_of_thumbImm h hv ?ok .sub (some rn) rfl⟩
    simpa [and_assoc] using allowed
  · have ok : (badReg rd || badReg rn) = false := Bool.or_eq_false_iff.2 ⟨hd, hn⟩
    obtain ⟨n13, n15⟩ : (rn == 13) = false ∧ (rn == 15) = false := Bool.or_eq_false_iff.1 hn
    refine ⟨resultDone_of_thumbImm h hv ok .and (some rn) rfl, ?_, resultDone_of_thumbImm h hv ok .eor (some rn) rfl⟩
    exact resultDone_of_dataProc h .orr (some rn) (.imm v.1 v.2) rfl
      ((notInSubsetIf_pass n15).trans (thumbImm_pass (Bool.or_eq_false_iff.2 ⟨hd, n13⟩) hv))
  · exact resultDone_of_thumbImm h hv hd .mvn none rfl
  · have ok : (if rn == 13 then rd == 15 else badReg rd) = false := by simpa using allowed
    have completes {i : Instr} (op : AluOp) (e : exec i s = runHandler (notInSubsetIf (rn == 15) >>= fun _ =>
        unpredictableIf (if rn == 13 then rd == 15 else badReg rd) >>= fun _ =>
        plainImm ((i1 ++ imm3 ++ imm8).setWidth 32) >>= fun o => dataProc op rd (some rn) o false) s) :=
      resultDone_of_dataProc h op (some rn) (.imm ((i1 ++ imm3 ++ imm8).setWidth 32) s.carry) e
        ((notInSubsetIf_pass (beq_false_of_ne hn)).trans ((unpredictableIf_pass ok).trans (bind_ok (plainImm_eq _ s))))
    exact ⟨completes .add rfl, completes .sub rfl⟩

/-- Settles O10: the operands pass the tests of the rule, and the template runs on the shifted register. -/
theorem thumb32Register : Obligations.Thumb32Register := by
  intro s h setS rn rd rm imm3 imm2 ty
  have completes {i : Instr} {b : Bool} (hb : b = false) (op : AluOp) (n : Option RegNum)
      (e : exec i s = runHandler (unpredictableIf b >>= fun _ => dataProc op rd n (shiftedReg rm ty (imm3 ++ imm2)) setS) s) :=
    resultDone_of_dataProc h op n (shiftedReg rm ty (imm3 ++ imm2)) e (unpredictableIf_pass hb)
  refine ⟨fun hd hn hm => ?_, fun hd hm => ?_, fun hm d15 allowed => ?_⟩
  · have ok : (badReg rd || badReg rn || badReg rm) = false := by simp [hd, hn, hm]
    obtain ⟨n13, n15⟩ : (rn == 13) = false ∧ (rn == 15) = false := Bool.or_eq_false_iff.1 hn
    refine ⟨completes ok .adc (some rn) rfl, completes ok .rsb (some rn) rfl, completes ok .and (some rn) rfl, ?_,
      completes ok .eor (some rn) rfl⟩
    refine resultDone_of_dataProc h .orr (some rn) (shiftedReg rm ty (imm3 ++ imm2)) rfl
      ((notInSubsetIf_pass n15).trans (unpredictableIf_pass ?_))
    rw [hd, n13, hm]
    rfl
  · exact completes (Bool.or_eq_false_iff.2 ⟨hd, hm⟩) .mvn none rfl
  · refine ⟨completes ?ok .add (some rn) rfl, completes ?ok .sub (some rn) rfl⟩
    simp only [beq_false_of_ne d15, hm, Bool.or_false]
    simpa using allowed

/-- Settles O11: the operands pass the tests of the rule, and the flag template runs. -/
theorem thumb32Compares : Obligations.Thumb32Compares := by
  intro s h i1 rn rm imm3 imm8 imm2 ty
  refine ⟨fun v hv => ⟨fun hn => ?_, fun hn => ?_⟩, fun hm => ?_⟩
  · have ok := beq_false_of_ne hn
    exact ⟨flagsDone_of_thumbImm h hv ok .sub rn rfl, flagsDone_of_thumbImm h hv ok .add rn rfl⟩
  · exact ⟨flagsDone_of_thumbImm h hv hn .and rn rfl, flagsDone_of_thumbImm h hv hn .eor rn rfl⟩
  · have completes {i : Instr} {b : Bool} (hb : b = false) (op : AluOp)
        (e : exec i s = runHandler (unpredictableIf (b || badReg rm) >>= fun _ =>
          compare op rn (shiftedReg rm ty (imm3 ++ imm2))) s) :=
      flagsDone_of_compare h op rn (shiftedReg rm ty (imm3 ++ imm2)) e
        (unpredictableIf_pass (Bool.or_eq_false_iff.2 ⟨hb, hm⟩))
    exact ⟨fun hn => ⟨completes (beq_false_of_ne hn) .sub rfl, completes (beq_false_of_ne hn) .add rfl⟩,
      fun hn => ⟨completes hn .and rfl, completes hn .eor rfl⟩⟩

end Sys2Proof.Machine
end

section
/-! Proofs of the statements about the logical instructions that write a register (44_dp_logic.md rules R250 to R257). They run the
template of the arithmetic instructions (43_dp_arith.md rule R221); AND, ORR and EOR have a first operand, MVN has none. -/

namespace Sys2Proof.Machine

/-- Settles O3: the second operand, expanded or shifted, brings the carry, and the template runs with the operation. -/
theorem armLogical : Obligations.ArmLogical := by
  intro s h cond setS rn rd
  refine ⟨fun imm12 => ?immediate, fun imm5 ty rm => ?register⟩
  case immediate =>
    exact ⟨resultDone_of_armImm h .and (some rn) rfl, resultDone_of_armImm h .orr (some rn) rfl,
      resultDone_of_armImm h .eor (some rn) rfl, resultDone_of_armImm h .mvn none rfl⟩
  case register =>
    have completes {i : Instr} (op : AluOp) (n : Option RegNum)
        (e : exec i s = runHandler (dataProc op rd n (shiftedReg rm ty imm5) setS) s) :=
      resultDone_of_dataProc h op n (shiftedReg rm ty imm5) e rfl
    exact ⟨completes .and (some rn) rfl, completes .orr (some rn) rfl, completes .eor (some rn) rfl, completes .mvn none rfl⟩

/-- Settles O6: a register as it is brings the carry of `CPSR_in` (40_primitives.md rule R150), and the template runs with
`setflags` as 41_condition_it.md rule R179 gives it. -/
theorem thumb16Logical : Obligations.Thumb16Logical := by
  intro s h rm rd
  have completes {i : Instr} (op : AluOp) (n : Option RegNum)
      (e : exec i s = runHandler (flagsOutsideIT >>= dataProc op (lowReg rd) n (plainReg (lowReg rm))) s) :=
    resultDone_of_plainReg h op n (lowReg rm) e flagsOutsideIT_pass
  exact ⟨completes .and (some (lowReg rd)) rfl, completes .eor (some (lowReg rd)) rfl, completes .orr (some (lowReg rd)) rfl,
    completes .mvn none rfl⟩

end Sys2Proof.Machine
end

section
/-! Proofs of the statements about shifts and rotates (45_shift_rotate.md rules R280 to R289): each instruction passes the tests of
its rule and runs one of the two templates of rule R280, the immediate or the register-controlled one. -/

namespace Sys2Proof.Machine

section Formats

variable {i : Instr} {s : State} {g : Handler Unit} {d : RegNum} {f : Bool}

/-! ## Instructions that come down to a template (R280, R108) -/

theorem resultDone_of_shiftImm (h : s.served) {m : RegNum} {ty : SRType} {amount : Nat}
    (e : exec i s = runHandler g s) (run : g s = shiftImm d m ty amount f s) : ResultDone i s d f (shifted s m ty amount) := by
  obtain ⟨t, ht, w⟩ := shiftImm_spec h d m ty amount f
  exact resultDone_of e (run.trans ht) w

theorem resultDone_of_shiftReg (h : s.served) {n m : RegNum} {ty : SRType}
    (e : exec i s = runHandler g s) (run : g s = shiftReg d n m ty f s) :
    ResultDone i s d f (shifted s n ty (s.operand m &&& 0xff).toNat) := by
  obtain ⟨t, ht, w⟩ := shiftReg_spec h d n m ty f
  exact resultDone_of e (run.trans ht) w

end Formats

/-- Settles O12: the immediate forms and RRX run their template at once; with no operand the PC the register-controlled forms pass
the test of rule R280. -/
theorem armShifts : Obligations.ArmShifts := by
  intro s h cond setS rd rm rn imm5
  have immediate {i : Instr} {ty : SRType} {amount : Nat} (e : exec i s = runHandler (shiftImm rd rm ty amount setS) s) :=
    resultDone_of_shiftImm h e rfl
  refine ⟨immediate rfl, immediate rfl, immediate rfl, immediate rfl, immediate rfl, fun hd hn hm => ?_⟩
  have ok : (rd == 15 || rn == 15 || rm == 15) = false := by simpa using And.intro (And.intro hd hn) hm
  have register {i : Instr} {ty : SRType} (e : exec i s = runHandler
      (unpredictableIf (rd == 15 || rn == 15 || rm == 15) >>= fun _ => shiftReg rd rn rm ty setS) s) :=
    resultDone_of_shiftReg h e (unpredictableIf_pass ok)
  exact ⟨register rfl, register rfl, register rfl, register rfl⟩

/-- Settles O13: the templates run with `setflags` as 41_condition_it.md rule R179 gives it; LSL by an immediate first passes
the test of rule R283, which only the amount 0 inside an IT block fails. -/
theorem thumb16Shifts : Obligations.Thumb16Shifts := by
  intro s h rm rd imm5
  have immediate {i : Instr} {ty : SRType} {amount : Nat}
      (e : exec i s = runHandler (flagsOutsideIT >>= shiftImm (lowReg rd) (lowReg rm) ty amount) s) :=
    resultDone_of_shiftImm h e flagsOutsideIT_pass
  have register {i : Instr} {ty : SRType}
      (e : exec i s = runHandler (flagsOutsideIT >>= shiftReg (lowReg rd) (lowReg rd) (lowReg rm) ty) s) :=
    resultDone_of_shiftReg h e flagsOutsideIT_pass
  refine ⟨immediate rfl, immediate rfl, fun outside => ?_, register rfl, register rfl, register rfl, register rfl⟩
  have ok : (imm5 == 0 && s.inITBlock) = false := by simpa using outside
  exact resultDone_of_shiftImm h rfl (inIT_pass.trans ((unpredictableIf_pass ok).trans flagsOutsideIT_pass))

/-- Settles O14: operands other than SP and PC pass the test of rule R280, and the template runs. -/
theorem thumb32Shifts : Obligations.Thumb32Shifts := by
  intro s h setS rd rm rn imm3 imm2 hd hm
  have immediate {i : Instr} {ty : SRType} {amount : Nat} (e : exec i s = runHandler
      (unpredictableIf (badReg rd || badReg rm) >>= fun _ => shiftImm rd rm ty amount setS) s) :=
    resultDone_of_shiftImm h e (unpredictableIf_pass (Bool.or_eq_false_iff.2 ⟨hd, hm⟩))
  refine ⟨immediate rfl, immediate rfl, immediate rfl, immediate rfl, immediate rfl, fun hn => ?_⟩
  have ok : (badReg rd || badReg rn || badReg rm) = false := by simp [hd, hn, hm]
  have register {i : Instr} {ty : SRType} (e : exec i s = runHandler
      (unpredictableIf (badReg rd || badReg rn || badReg rm) >>= fun _ => shiftReg rd rn rm ty setS) s) :=
    resultDone_of_shiftReg h e (unpredictableIf_pass ok)
  exact ⟨register rfl, register rfl, register rfl, register rfl⟩

end Sys2Proof.Machine
end

section
/-! Proofs of the statements about branches (46_branch.md rules R300 to R313): the four PC-write policies, and the branch
instructions, each the tests of its rule in front of one template. -/

namespace Sys2Proof.Machine

/-! ## PC-write policies (R300 to R303) -/

/-- A register write that ends normally was accepted, and an accepted one leaves the state of `afterWrite` (00_scope.md rule R8). -/
theorem eq_afterWrite_of_writeReg {ctx : Context} {n : RegNum} {v : Word} {s t : State} (h : writeReg ctx n v s = .ok () t) :
    t = s.afterWrite ctx n v := by
  cases accepted : s.refuses (.writeReg (.core n)) with
  | true => simp [writeReg, callWrite, portWriteRegister, accepted] at h
  | false => simpa [writeReg, callWrite, portWriteRegister, accepted, State.setReg, State.afterWrite, eq_comm] using h

/-- Settles O50: each policy is its rule read as a handler, and an accepted write of register 15 sets `PC_WRITTEN`. -/
theorem pcWritePolicies : Obligations.PcWritePolicies := by
  intro s ctx a
  refine ⟨rfl, handler_ite _ _ _ s, archVersion_pass.trans (handler_ite _ _ _ s),
    (bind_ok (handler_get s)).trans (handler_ite _ _ _ s), fun v t h => ?_⟩
  rw [eq_afterWrite_of_writeReg h]
  exact ⟨Bool.or_true _, State.getCore_afterWrite_same s ctx 15 v⟩

section Formats

variable {i : Instr} {s t : State} {g : Handler Unit}

/-! ## From the end of a handler to a completed branch -/

theorem BranchFrame.sameMem {links : List RegNum} (f : BranchFrame links s t) : SameMem s t := fun x => by rw [f.mem]

theorem branchDone_of {a : Word} (e : exec i s = runHandler g s) (ht : g s = .ok () t) (p : PcBranch s t a)
    (f : BranchFrame [] s t) : BranchDone i s a :=
  completes_of e ht f.block ⟨p, f.core, f.sameMem, f.ext⟩

theorem linkBranchDone_of {lr : Word} {P : State → Prop} (e : exec i s = runHandler g s) (ht : g s = .ok () t)
    (link : t.getCore 14 = lr) (p : P t.succeed) (f : BranchFrame [14] s t) : LinkBranchDone i s lr P :=
  completes_of e ht f.block ⟨link, p, f.core, f.sameMem, f.ext⟩

/-! ## The test on the IT state (41_condition_it.md rule R179) -/

/-- A branch that stands outside an IT block or last in it passes the test. -/
theorem unpredictableInITNotLast_allowed {k : Unit → Handler Unit} (last : s.inITBlock = true → s.lastInITBlock = true) :
    (unpredictableInITNotLast >>= k) s = k () s :=
  unpredictableInITNotLast_pass (pcLoad_allowed (p := true) fun _ => last)

/-! ## Instructions that come down to a template -/

theorem branchDone_of_branchTo (h : s.served) {offset : Word} (e : exec i s = runHandler g s)
    (run : g s = branchTo offset s) : BranchDone i s (s.pcValue + offset) := by
  obtain ⟨t, ht, p, f⟩ := branchTo_spec h offset
  exact branchDone_of e (run.trans ht) p f

theorem linkAfter32_eq_nextWide (s : State) : s.linkAfter32 = nextWide s := by
  unfold State.linkAfter32 nextWide
  cases s.inst.mode <;> rfl

theorem linkAfter16_eq_nextNarrow (s : State) : s.linkAfter16 = nextNarrow s := by
  unfold State.linkAfter16 nextNarrow
  cases s.inst.mode <;> rfl

theorem linkBranchDone_of_branchLink (h : s.served) {offset : Word} (e : exec i s = runHandler g s)
    (run : g s = branchLink offset s) :
    LinkBranchDone i s (nextWide s) fun t => PcBranch s t (s.pcValue + offset) := by
  obtain ⟨t, ht, p, link, f⟩ := branchLink_spec h offset
  exact linkBranchDone_of e (run.trans ht) (link.trans (linkAfter32_eq_nextWide s)) p f

theorem linkBranchDone_of_branchLinkExchange (h : s.served) {offset : Word} (e : exec i s = runHandler g s)
    (run : g s = branchLinkExchange offset s) : LinkBranchDone i s (nextWide s) fun t => PcOtherSet s t offset := by
  obtain ⟨t, ht, p, link, f⟩ := branchLinkExchange_spec h offset
  refine linkBranchDone_of e (run.trans ht) (link.trans (linkAfter32_eq_nextWide s)) ?_ f
  unfold PcOtherSet
  cases hm : s.inst.mode with
  | arm => rw [hm] at p; exact p
  | thumb => rw [hm] at p; exact p

theorem registerBranchDone_of_branchExchange (h : s.served) {m : RegNum} (e : exec i s = runHandler g s)
    (run : g s = branchExchange m s) : RegisterBranchDone i s (s.operand m) none := by
  obtain ⟨t, ht, p, f⟩ := branchExchange_spec h m
  exact completes_of e (run.trans ht) f.block ⟨p, nofun, f.core, f.sameMem, f.ext⟩

theorem registerBranchDone_of_branchLinkExchangeReg (h : s.served) {m : RegNum} (e : exec i s = runHandler g s)
    (run : g s = branchLinkExchangeReg m s) : RegisterBranchDone i s (s.operand m) (some (nextNarrow s)) := by
  obtain ⟨t, ht, p, link, f⟩ := branchLinkExchangeReg_spec h m
  have link' : ∀ v ∈ some (nextNarrow s), t.getCore 14 = v := by
    rintro _ ⟨⟩
    exact link.trans (linkAfter16_eq_nextNarrow s)
  exact completes_of e (run.trans ht) f.block ⟨p, link', f.core, f.sameMem, f.ext⟩

theorem branchDone_of_compareBranch (h : s.served) {n : RegNum} {nonzero : Bool} {offset : Word}
    (e : exec i s = runHandler g s) (run : g s = compareBranch n nonzero offset s)
    (taken : (s.operand n != 0) = nonzero) : BranchDone i s (s.pcValue + offset) := by
  obtain ⟨t, ht, f, p⟩ := compareBranch_spec h n nonzero offset
  rw [if_pos taken] at p
  exact branchDone_of e (run.trans ht) p f

theorem untakenDone_of_compareBranch (h : s.served) {n : RegNum} {nonzero : Bool} {offset : Word}
    (e : exec i s = runHandler g s) (run : g s = compareBranch n nonzero offset s)
    (untaken : (s.operand n != 0) = !nonzero) : UntakenDone i s := by
  obtain ⟨t, ht, f, p⟩ := compareBranch_spec h n nonzero offset
  rw [if_neg (untaken ▸ Bool.not_ne_self nonzero)] at p
  obtain ⟨pc, status⟩ := p
  have core : SameCoreBut [] s t := fun k _ => by
    by_cases hk : k = 15
    · rw [hk, pc]
    · exact f.core k (by simpa using hk)
  exact completes_of e (run.trans ht) f.block ⟨core, status, f.sameMem, f.ext⟩

theorem branchDone_of_tableBranch (h : s.served) {n m : RegNum} {size scale : Nat} {v : DWord}
    (hv : Memory.readLE s.mem (s.operand n + s.operand m <<< scale) size = some v)
    (e : exec i s = runHandler g s) (run : g s = tableBranch n m size scale s) :
    BranchDone i s (s.pcValue + 2 * v.setWidth 32) := by
  obtain ⟨t, ht, p, f⟩ := tableBranch_spec h n m size scale hv
  exact branchDone_of e (run.trans ht) p f

end Formats

/-! ## The statements -/

/-- Settles O15: on the words and IT states of its rule each encoding passes its tests and is the template of B. -/
theorem branches : Obligations.Branches := by
  intro s h
  refine ⟨fun cond imm24 => branchDone_of_branchTo h rfl rfl,
    fun outside => ⟨fun cond imm8 always => ?_, fun sgn cond imm6 j1 j2 imm11 inSubset => ?_⟩,
    fun last => ⟨fun imm11 => branchDone_of_branchTo h rfl (unpredictableInITNotLast_allowed last),
      fun sgn imm10 j1 j2 imm11 => branchDone_of_branchTo h rfl (unpredictableInITNotLast_allowed last)⟩⟩
  · exact branchDone_of_branchTo h rfl
      ((unpredictableIf_pass (beq_false_of_ne always)).trans (unpredictableInIT_pass outside))
  · have ok : (cond.extractLsb' 1 3 == 7) = false := by
      revert cond
      decide
    exact branchDone_of_branchTo h rfl ((notInSubsetIf_pass ok).trans (unpredictableInIT_pass outside))

/-- Settles O16: each encoding passes its tests, and the template links before it branches; that of BLX takes the other
instruction set than that of the instruction. -/
theorem branchesWithLink : Obligations.BranchesWithLink := by
  intro s h
  refine ⟨fun cond imm24 => linkBranchDone_of_branchLink h rfl rfl,
    fun hbit imm24 => linkBranchDone_of_branchLinkExchange h rfl rfl, fun last sgn imm10 j1 j2 => ⟨fun imm11 => ?_, fun imm10l => ?_⟩⟩
  · exact linkBranchDone_of_branchLink h rfl (unpredictableInITNotLast_allowed last)
  · exact linkBranchDone_of_branchLinkExchange h rfl
      ((unpredictableIf_pass rfl).trans (unpredictableInITNotLast_allowed last))

/-- Settles O17: each encoding passes its tests, and the template reads its target before it links. -/
theorem branchesToRegister : Obligations.BranchesToRegister := by
  intro s h
  refine ⟨fun cond rm => ⟨registerBranchDone_of_branchExchange h rfl rfl, fun notPC => ?_⟩,
    fun last rm => ⟨registerBranchDone_of_branchExchange h rfl (unpredictableInITNotLast_allowed last), fun notPC => ?_⟩⟩
  · exact registerBranchDone_of_branchLinkExchangeReg h rfl (unpredictableIf_pass (beq_false_of_ne notPC))
  · exact registerBranchDone_of_branchLinkExchangeReg h rfl
      ((unpredictableIf_pass (beq_false_of_ne notPC)).trans (unpredictableInITNotLast_allowed last))

/-- Settles O18: CBZ and CBNZ are one template that asks for opposite answers of one test, so that exactly one of them branches;
TBB and TBH are one template with two sizes of an entry. -/
theorem compareAndTableBranches : Obligations.CompareAndTableBranches := by
  intro s h
  refine ⟨fun outside i1 imm5 rn => ⟨fun zero => ?_, fun nonzero => ?_⟩, fun last rn rm notSP hm v => ?_⟩
  · have test : (s.operand (lowReg rn) != 0) = false := bne_eq_false_iff_eq.2 zero
    exact ⟨branchDone_of_compareBranch h rfl (unpredictableInIT_pass outside) test,
      untakenDone_of_compareBranch h rfl (unpredictableInIT_pass outside) test⟩
  · have test : (s.operand (lowReg rn) != 0) = true := bne_iff_ne.2 nonzero
    exact ⟨branchDone_of_compareBranch h rfl (unpredictableInIT_pass outside) test,
      untakenDone_of_compareBranch h rfl (unpredictableInIT_pass outside) test⟩
  · have ok : (rn == 13 || badReg rm) = false := Bool.or_eq_false_iff.2 ⟨beq_false_of_ne notSP, hm⟩
    have byte : s.operand rm <<< 0 = s.operand rm := BitVec.shiftLeft_zero _
    exact ⟨fun hv => branchDone_of_tableBranch h (by rwa [byte]) rfl
        ((unpredictableIf_pass ok).trans (unpredictableInITNotLast_allowed last)),
      fun hv => branchDone_of_tableBranch h hv rfl
        ((unpredictableIf_pass ok).trans (unpredictableInITNotLast_allowed last))⟩

end Sys2Proof.Machine
end

section
/-! Proofs of the statements about load and store multiple (47_load_store_multiple.md rules R330 to R338): each instruction is the
test of its rule in front of one transfer of a list, whose addresses are those of the variant. -/

namespace Sys2Proof.Machine

/-! ## The addresses of a variant (R330) -/

/-- The first address of a transfer of `regs` from the base `a`. -/
def Variant.firstAddress (v : Variant) (a : Word) (regs : BitVec 16) : Word :=
  match v with
  | .ia => a
  | .ib => a + 4
  | .da => a - listBytes regs + 4
  | .db => a - listBytes regs

/-- The base after a transfer of `regs` from the base `a`. -/
def Variant.newBase (v : Variant) (a : Word) (regs : BitVec 16) : Word :=
  match v with
  | .ia | .ib => a + listBytes regs
  | .da | .db => a - listBytes regs

theorem Variant.add_firstOffset (v : Variant) (a : Word) (regs : BitVec 16) :
    a + v.firstOffset (bitCount regs) = v.firstAddress a regs := by
  cases v with
  | ia => exact BitVec.add_zero a
  | ib => rfl
  | da => exact (add_sub_assoc a 4 _).symm.trans (add_sub_right_comm a 4 _)
  | db => exact add_zero_sub a _

theorem Variant.add_baseChange (v : Variant) (a : Word) (regs : BitVec 16) :
    a + v.baseChange (bitCount regs) = v.newBase a regs := by
  cases v with
  | ia => rfl
  | ib => rfl
  | da => exact Variant.add_firstOffset .db a regs
  | db => exact Variant.add_firstOffset .db a regs

/-! ## A test in front of a transfer -/

section Formats

variable {i : Instr} {s : State} {b : Bool} {n : RegNum} {regs : BitVec 16} {wback : Bool}

theorem loadManyAt_of_exec {vals : Nat → Word} (h : s.served) (v : Variant) (notPC : n ≠ 15) (hb : b = false)
    (e : exec i s = runHandler (unpredictableIf b >>= fun _ => loadMultiple v n regs wback) s) :
    LoadManyAt i s regs (v.firstAddress (s.operand n) regs) vals n wback (v.newBase (s.operand n) regs) := by
  rw [← v.add_firstOffset, ← v.add_baseChange]
  intro mapped
  obtain ⟨t, ht, w⟩ := loadMultiple_spec h v n regs wback vals notPC mapped
  exact loadManyDone_of e ((unpredictableIf_pass hb).trans ht) w

theorem storeManyDone_of_exec (h : s.served) (v : Variant) (hb : b = false)
    (e : exec i s = runHandler (unpredictableIf b >>= fun _ => storeMultiple v n regs wback) s) :
    StoreManyDone i s regs (v.firstAddress (s.operand n) regs) n wback (v.newBase (s.operand n) regs) := by
  rw [← v.add_firstOffset, ← v.add_baseChange]
  obtain ⟨t, ht, w⟩ := storeMultiple_spec h v n regs wback
  exact storeManyDone_of e ((unpredictableIf_pass hb).trans ht) w

end Formats

theorem lowReg_ne_pc : ∀ n : BitVec 3, lowReg n ≠ 15 := by decide

/-! ## The statements -/

/-- Settles O23: on the lists, bases and IT states of its rule each encoding passes its test and is the loads of its variant. -/
theorem loadMultiples : Obligations.LoadMultiples := by
  intro s h vals w
  refine ⟨fun cond rn regs notPC nonempty old => ?_, fun rn regs nonempty => ?_,
    fun rn p m regs notPC two notBoth last unlisted => ?_⟩
  · have ok : (rn == 15 || bitCount regs == 0 || w && regs.getLsbD rn.toNat && decide (7 ≤ s.arch.version)) = false := by
      rw [beq_false_of_ne notPC, beq_false_of_ne nonempty]
      simpa using old
    exact ⟨loadManyAt_of_exec h .ia notPC ok rfl, loadManyAt_of_exec h .da notPC ok rfl,
      loadManyAt_of_exec h .db notPC ok rfl, loadManyAt_of_exec h .ib notPC ok rfl⟩
  · exact loadManyAt_of_exec h .ia (lowReg_ne_pc rn) (beq_false_of_ne nonempty) rfl
  · have ok : (rn == 15 || decide (bitCount (listPM13 p m regs) < 2) || p && m || p && (s.inITBlock && !s.lastInITBlock)
        || w && (listPM13 p m regs).getLsbD rn.toNat) = false := by
      rw [beq_false_of_ne notPC, decide_eq_false (Nat.not_lt.2 two), notBoth, pcLoad_allowed last,
        Bool.and_eq_false_imp.2 unlisted]
      rfl
    exact ⟨loadManyAt_of_exec h .ia notPC ok rfl, loadManyAt_of_exec h .db notPC ok rfl⟩

/-- Settles O24: on the lists and bases of its rule each encoding passes its test and is the stores of its variant. -/
theorem storeMultiples : Obligations.StoreMultiples := by
  intro s h w
  refine ⟨fun cond rn regs notPC nonempty => ?_, fun rn regs nonempty => ?_, fun rn m regs notPC two unlisted => ?_⟩
  · have ok : (rn == 15 || bitCount regs == 0) = false :=
      Bool.or_eq_false_iff.2 ⟨beq_false_of_ne notPC, beq_false_of_ne nonempty⟩
    exact ⟨storeManyDone_of_exec h .ia ok rfl, storeManyDone_of_exec h .da ok rfl,
      storeManyDone_of_exec h .db ok rfl, storeManyDone_of_exec h .ib ok rfl⟩
  · exact storeManyDone_of_exec h .ia (beq_false_of_ne nonempty) rfl
  · have ok : (rn == 15 || decide (bitCount (listM13 m regs) < 2) || w && (listM13 m regs).getLsbD rn.toNat) = false := by
      rw [beq_false_of_ne notPC, decide_eq_false (Nat.not_lt.2 two), Bool.and_eq_false_imp.2 unlisted]
      rfl
    exact ⟨storeManyDone_of_exec h .ia ok rfl, storeManyDone_of_exec h .db ok rfl⟩

end Sys2Proof.Machine
end

section
/-! Proofs of the statements about single loads and stores (48_load_store_single.md rules R350 to R360): on the operands its rule
allows, each encoding passes its tests and is one load or one store of an addressing form. -/

namespace Sys2Proof.Machine

/-! ## The tests in front of a load or store -/

section Tests

variable {p u w : Bool} {n t : RegNum}

theorem writesBack_iff : (!p || w) = true ↔ p = false ∨ w = true := by simp

/-- LDRT and its kin, outside the subset, are the words with P = 0 and W = 1 of ARM (30_encoding.md rule R116). -/
theorem not_translated (h : p = false → w = false) : (!p && w) = false := by simpa using h

/-- The same words of Thumb are those with P = 1, U = 1 and W = 0 (R116). -/
theorem not_translatedT (h : ¬ (p = true ∧ u = true ∧ w = false)) : (p && u && !w) = false := by simpa using h

theorem indexed_or_writesBack (h : p = true ∨ w = true) : (!p && !w) = false := by
  rw [← Bool.not_or, Bool.or_eq_true_iff.2 h]
  rfl

theorem writeback_distinct (h : w = true → n ≠ t) : (w && n == t) = false :=
  Bool.and_eq_false_imp.2 fun hw => beq_false_of_ne (h hw)

theorem writeback_distinct_notPC (h : w = true → n ≠ 15 ∧ n ≠ t) : (w && (n == 15 || n == t)) = false :=
  Bool.and_eq_false_imp.2 fun hw => Bool.or_eq_false_iff.2 ⟨beq_false_of_ne (h hw).1, beq_false_of_ne (h hw).2⟩

theorem badReg_eq_false_iff : badReg n = false ↔ (n == 13) = false ∧ (n == 15) = false := Bool.or_eq_false_iff

end Tests

/-- LSL by 0, the offset of the 16-bit register forms, is the register as it is (40_primitives.md rule R150). -/
theorem shift_lsl_zero (x : Word) (c : Bool) : shift x .lsl 0 c = x := congrArg Prod.fst (shiftC_zero (ty := .lsl) x c nofun)

/-! ## Instructions that are one load -/

/-- The instruction passes its tests here and is the load of `rt` from `size` bytes at `a`, with this writeback: to another register
than `rt`, and never to the PC. -/
def IsLoad (i : Instr) (s : State) (rt : RegNum) (size : Nat) (a : Word) (wb : Option (RegNum × Word)) : Prop :=
  ∃ g f, exec i s = runHandler g s ∧ g s = loadSingle rt size f s ∧ f.addressIn s = a ∧ f.writeback s = wb ∧
    (f.wback = true → f.base.num ≠ rt ∧ f.base.num ≠ 15)

section Loads

variable {i : Instr} {s : State} {rt : RegNum} {size : Nat} {a : Word} {wb : Option (RegNum × Word)}

theorem IsLoad.completes (l : IsLoad i s rt size a wb) (h : s.served) : LoadAt i s rt size a wb := by
  obtain ⟨g, f, e, run, rfl, rfl, hw⟩ := l
  intro v mapped aligned
  obtain ⟨t, ht, w⟩ := loadSingle_spec h rt size f mapped aligned hw
  exact loadDone_of e (run.trans ht) w

theorem ReadsThenRaises.congr {g k : Handler Unit} {f : Failure} (r : ReadsThenRaises k s f) (e : g s = k s) :
    ReadsThenRaises g s f := by
  obtain ⟨calls, hk, reads⟩ := r
  exact ⟨calls, e.trans hk, reads⟩

theorem IsLoad.stops (l : IsLoad i s rt size a wb) (h : s.served) : LoadStops i s rt size a := by
  obtain ⟨g, f, e, run, rfl, -, -⟩ := l
  refine ⟨fun pc misaligned => ?_, fun aligned unmapped => ?_⟩
  · subst pc
    exact stopsReading_of e ((loadSingle_misaligned h size f misaligned).congr run)
  · exact stopsReading_of e ((loadSingle_unmapped h rt size f aligned unmapped).congr run)

end Loads

/-! ## The encodings of LDR and LDRB -/

section Arm

variable (s : State) (cond : BitVec 4) {p u w : Bool} {rn rt rm : BitVec 4} (imm12 : BitVec 12) (imm5 : BitVec 5) (ty : BitVec 2)

/-- The offset of an ARM register form. -/
def State.registerOffset (s : State) (rm : BitVec 4) (imm5 : BitVec 5) (ty : BitVec 2) : Word :=
  shift (s.operand rm) (decodeImmShift ty imm5).1 (decodeImmShift ty imm5).2 s.carry

theorem ldrLitA1_isLoad :
    IsLoad (.ldrLitA1 cond u rt imm12) s rt 4 (indexed true u (align4 s.pcValue) (imm12.setWidth 32)) none :=
  ⟨_, _, rfl, rfl, rfl, rfl, nofun⟩

theorem ldrImmA1_isLoad (inSubset : p = false → w = false) (notPC : rn ≠ 15) (distinct : (p = false ∨ w = true) → rn ≠ rt) :
    IsLoad (.ldrImmA1 cond p u w rn rt imm12) s rt 4 (indexed p u (s.operand rn) (imm12.setWidth 32))
      (writeback (!p || w) u rn (s.operand rn) (imm12.setWidth 32)) := by
  have distinct' := fun hw => distinct (writesBack_iff.1 hw)
  have ok : (rn == 15 || (!p || w) && rn == rt) = false :=
    Bool.or_eq_false_iff.2 ⟨beq_false_of_ne notPC, writeback_distinct distinct'⟩
  exact ⟨_, _, rfl, (notInSubsetIf_pass (not_translated inSubset)).trans (unpredictableIf_pass ok), rfl, rfl,
    fun hw => ⟨distinct' hw, notPC⟩⟩

theorem ldrRegA1_isLoad (inSubset : p = false → w = false) (mNotPC : rm ≠ 15)
    (distinct : (p = false ∨ w = true) → rn ≠ 15 ∧ rn ≠ rt) :
    IsLoad (.ldrRegA1 cond p u w rn rt imm5 ty rm) s rt 4 (indexed p u (s.operand rn) (s.registerOffset rm imm5 ty))
      (writeback (!p || w) u rn (s.operand rn) (s.registerOffset rm imm5 ty)) := by
  have distinct' := fun hw => distinct (writesBack_iff.1 hw)
  have ok : (rm == 15 || (!p || w) && (rn == 15 || rn == rt)) = false :=
    Bool.or_eq_false_iff.2 ⟨beq_false_of_ne mNotPC, writeback_distinct_notPC distinct'⟩
  exact ⟨_, _, rfl, (notInSubsetIf_pass (not_translated inSubset)).trans (unpredictableIf_pass ok), rfl, rfl,
    fun hw => (distinct' hw).symm⟩

theorem ldrbLitA1_isLoad (tNotPC : rt ≠ 15) :
    IsLoad (.ldrbLitA1 cond u rt imm12) s rt 1 (indexed true u (align4 s.pcValue) (imm12.setWidth 32)) none :=
  ⟨_, _, rfl, unpredictableIf_pass (beq_false_of_ne tNotPC), rfl, rfl, nofun⟩

theorem ldrbImmA1_isLoad (inSubset : p = false → w = false) (tNotPC : rt ≠ 15) (notPC : rn ≠ 15)
    (distinct : (p = false ∨ w = true) → rn ≠ rt) :
    IsLoad (.ldrbImmA1 cond p u w rn rt imm12) s rt 1 (indexed p u (s.operand rn) (imm12.setWidth 32))
      (writeback (!p || w) u rn (s.operand rn) (imm12.setWidth 32)) := by
  have distinct' := fun hw => distinct (writesBack_iff.1 hw)
  have ok : (rn == 15 || (!p || w) && rn == rt || rt == 15) = false := by
    rw [beq_false_of_ne notPC, writeback_distinct distinct', beq_false_of_ne tNotPC]
    rfl
  exact ⟨_, _, rfl, (notInSubsetIf_pass (not_translated inSubset)).trans (unpredictableIf_pass ok), rfl, rfl,
    fun hw => ⟨distinct' hw, notPC⟩⟩

theorem ldrbRegA1_isLoad (inSubset : p = false → w = false) (tNotPC : rt ≠ 15) (mNotPC : rm ≠ 15)
    (distinct : (p = false ∨ w = true) → rn ≠ 15 ∧ rn ≠ rt) :
    IsLoad (.ldrbRegA1 cond p u w rn rt imm5 ty rm) s rt 1 (indexed p u (s.operand rn) (s.registerOffset rm imm5 ty))
      (writeback (!p || w) u rn (s.operand rn) (s.registerOffset rm imm5 ty)) := by
  have distinct' := fun hw => distinct (writesBack_iff.1 hw)
  have ok : (rm == 15 || rt == 15 || (!p || w) && (rn == 15 || rn == rt)) = false := by
    rw [beq_false_of_ne mNotPC, beq_false_of_ne tNotPC, writeback_distinct_notPC distinct']
    rfl
  exact ⟨_, _, rfl, (notInSubsetIf_pass (not_translated inSubset)).trans (unpredictableIf_pass ok), rfl, rfl,
    fun hw => (distinct' hw).symm⟩

end Arm

section Thumb16

variable (s : State) (rn rt rm : BitVec 3) (imm5 : BitVec 5) (imm8 : BitVec 8)

theorem ldrImmT1_isLoad :
    IsLoad (.ldrImmT1 imm5 rn rt) s (lowReg rt) 4 (indexed true true (s.operand (lowReg rn)) (imm5.setWidth 32 * 4)) none :=
  ⟨_, _, rfl, rfl, rfl, rfl, nofun⟩

theorem ldrRegT1_isLoad :
    IsLoad (.ldrRegT1 rm rn rt) s (lowReg rt) 4 (indexed true true (s.operand (lowReg rn)) (s.operand (lowReg rm))) none :=
  ⟨_, _, rfl, rfl, congrArg (s.operand (lowReg rn) + ·) (shift_lsl_zero _ _), rfl, nofun⟩

theorem ldrImmT2_isLoad :
    IsLoad (.ldrImmT2 rt imm8) s (lowReg rt) 4 (indexed true true (s.getCore 13) (imm8.setWidth 32 * 4)) none :=
  ⟨_, _, rfl, rfl, rfl, rfl, nofun⟩

theorem ldrLitT1_isLoad :
    IsLoad (.ldrLitT1 rt imm8) s (lowReg rt) 4 (indexed true true (align4 s.pcValue) (imm8.setWidth 32 * 4)) none :=
  ⟨_, _, rfl, rfl, rfl, rfl, nofun⟩

theorem ldrbImmT1_isLoad :
    IsLoad (.ldrbImmT1 imm5 rn rt) s (lowReg rt) 1 (indexed true true (s.operand (lowReg rn)) (imm5.setWidth 32)) none :=
  ⟨_, _, rfl, rfl, rfl, rfl, nofun⟩

theorem ldrbRegT1_isLoad :
    IsLoad (.ldrbRegT1 rm rn rt) s (lowReg rt) 1 (indexed true true (s.operand (lowReg rn)) (s.operand (lowReg rm))) none :=
  ⟨_, _, rfl, rfl, congrArg (s.operand (lowReg rn) + ·) (shift_lsl_zero _ _), rfl, nofun⟩

end Thumb16

section Thumb32

variable {s : State} {rn rt rm : BitVec 4} {p u w : Bool} (imm12 : BitVec 12) (imm8 : BitVec 8) (imm2 : BitVec 2)

/-- The test of 41_condition_it.md rule R179 on a load of the PC. -/
theorem notPC_or_last (last : rt = 15 → s.inITBlock = true → s.lastInITBlock = true) :
    (rt == 15 && (s.inITBlock && !s.lastInITBlock)) = false :=
  pcLoad_allowed fun pc => last (eq_of_beq pc)

section Words

variable (last : rt = 15 → s.inITBlock = true → s.lastInITBlock = true)

include last

theorem ldrLitT2_isLoad :
    IsLoad (.ldrLitT2 u rt imm12) s rt 4 (indexed true u (align4 s.pcValue) (imm12.setWidth 32)) none :=
  ⟨_, _, rfl, inITNotLast_pass.trans (unpredictableIf_pass (notPC_or_last last)), rfl, rfl, nofun⟩

theorem ldrImmT3_isLoad :
    IsLoad (.ldrImmT3 rn rt imm12) s rt 4 (indexed true true (s.operand rn) (imm12.setWidth 32)) none :=
  ⟨_, _, rfl, inITNotLast_pass.trans (unpredictableIf_pass (notPC_or_last last)), rfl, rfl, nofun⟩

theorem ldrRegT2_isLoad (hm : badReg rm = false) :
    IsLoad (.ldrRegT2 rn rt imm2 rm) s rt 4
      (indexed true true (s.operand rn) (shift (s.operand rm) .lsl imm2.toNat s.carry)) none :=
  ⟨_, _, rfl, inITNotLast_pass.trans (unpredictableIf_pass (Bool.or_eq_false_iff.2 ⟨hm, notPC_or_last last⟩)), rfl, rfl, nofun⟩

theorem ldrImmT4_isLoad (notPC : rn ≠ 15) (form : p = true ∨ w = true) (inSubset : ¬ (p = true ∧ u = true ∧ w = false))
    (distinct : w = true → rn ≠ rt) :
    IsLoad (.ldrImmT4 rn rt p u w imm8) s rt 4 (indexed p u (s.operand rn) (imm8.setWidth 32))
      (writeback w u rn (s.operand rn) (imm8.setWidth 32)) := by
  have ok : (!p && !w || w && rn == rt || rt == 15 && (s.inITBlock && !s.lastInITBlock)) = false := by
    rw [indexed_or_writesBack form, writeback_distinct distinct, notPC_or_last last]
    rfl
  exact ⟨_, _, rfl, (notInSubsetIf_pass (not_translatedT inSubset)).trans (inITNotLast_pass.trans (unpredictableIf_pass ok)),
    rfl, rfl, fun hw => ⟨distinct hw, notPC⟩⟩

end Words

section Bytes

variable (ht : badReg rt = false)

include ht

theorem ldrbLitT1_isLoad :
    IsLoad (.ldrbLitT1 u rt imm12) s rt 1 (indexed true u (align4 s.pcValue) (imm12.setWidth 32)) none := by
  obtain ⟨t13, t15⟩ := badReg_eq_false_iff.1 ht
  exact ⟨_, _, rfl, (notInSubsetIf_pass t15).trans (unpredictableIf_pass t13), rfl, rfl, nofun⟩

theorem ldrbImmT2_isLoad :
    IsLoad (.ldrbImmT2 rn rt imm12) s rt 1 (indexed true true (s.operand rn) (imm12.setWidth 32)) none := by
  obtain ⟨t13, t15⟩ := badReg_eq_false_iff.1 ht
  exact ⟨_, _, rfl, (notInSubsetIf_pass t15).trans (unpredictableIf_pass t13), rfl, rfl, nofun⟩

theorem ldrbRegT2_isLoad (hm : badReg rm = false) :
    IsLoad (.ldrbRegT2 rn rt imm2 rm) s rt 1
      (indexed true true (s.operand rn) (shift (s.operand rm) .lsl imm2.toNat s.carry)) none := by
  obtain ⟨t13, t15⟩ := badReg_eq_false_iff.1 ht
  exact ⟨_, _, rfl, (notInSubsetIf_pass t15).trans (unpredictableIf_pass (Bool.or_eq_false_iff.2 ⟨hm, t13⟩)), rfl, rfl, nofun⟩

theorem ldrbImmT3_isLoad (notPC : rn ≠ 15) (form : p = true ∨ w = true) (inSubset : ¬ (p = true ∧ u = true ∧ w = false))
    (distinct : w = true → rn ≠ rt) :
    IsLoad (.ldrbImmT3 rn rt p u w imm8) s rt 1 (indexed p u (s.operand rn) (imm8.setWidth 32))
      (writeback w u rn (s.operand rn) (imm8.setWidth 32)) := by
  have inSubset' : (p && u && !w || rt == 15 && p && !u && !w) = false := by
    rw [not_translatedT inSubset, (badReg_eq_false_iff.1 ht).2]
    rfl
  have ok : (!p && !w || badReg rt || w && rn == rt) = false := by
    rw [indexed_or_writesBack form, ht, writeback_distinct distinct]
    rfl
  exact ⟨_, _, rfl, (notInSubsetIf_pass inSubset').trans (unpredictableIf_pass ok), rfl, rfl, fun hw => ⟨distinct hw, notPC⟩⟩

end Bytes

end Thumb32

/-! ## Loads that complete -/

/-- Settles O25: each encoding is a load of one word. -/
theorem wordLoads : Obligations.WordLoads := by
  intro s h
  refine ⟨fun cond p u w rn rt rm imm12 imm5 ty inSubset => ⟨?_, fun notPC distinct => ?_, fun mNotPC distinct => ?_⟩,
    fun rn rt rm imm5 imm8 => ⟨?_, ?_, ?_, ?_⟩,
    fun rn rt rm p u w imm12 imm8 imm2 last => ⟨?_, fun notPC => ⟨?_, fun hm => ?_, fun form inSubset distinct => ?_⟩⟩⟩
  · exact (ldrLitA1_isLoad s cond imm12).completes h
  · exact (ldrImmA1_isLoad s cond imm12 inSubset notPC distinct).completes h
  · exact (ldrRegA1_isLoad s cond imm5 ty inSubset mNotPC distinct).completes h
  · exact (ldrImmT1_isLoad s rn rt imm5).completes h
  · exact (ldrRegT1_isLoad s rn rt rm).completes h
  · exact (ldrImmT2_isLoad s rt imm8).completes h
  · exact (ldrLitT1_isLoad s rt imm8).completes h
  · exact (ldrLitT2_isLoad imm12 last).completes h
  · exact (ldrImmT3_isLoad imm12 last).completes h
  · exact (ldrRegT2_isLoad imm2 last hm).completes h
  · exact (ldrImmT4_isLoad imm8 last notPC form inSubset distinct).completes h

/-- Settles O26: each encoding is a load of one byte. -/
theorem byteLoads : Obligations.ByteLoads := by
  intro s h
  refine ⟨fun cond p u w rn rt rm imm12 imm5 ty inSubset tNotPC =>
      ⟨?_, fun notPC distinct => ?_, fun mNotPC distinct => ?_⟩,
    fun rn rt rm imm5 => ⟨?_, ?_⟩,
    fun rn rt rm p u w imm12 imm8 imm2 ht => ⟨?_, fun notPC => ⟨?_, fun hm => ?_, fun form inSubset distinct => ?_⟩⟩⟩
  · exact (ldrbLitA1_isLoad s cond imm12 tNotPC).completes h
  · exact (ldrbImmA1_isLoad s cond imm12 inSubset tNotPC notPC distinct).completes h
  · exact (ldrbRegA1_isLoad s cond imm5 ty inSubset tNotPC mNotPC distinct).completes h
  · exact (ldrbImmT1_isLoad s rn rt imm5).completes h
  · exact (ldrbRegT1_isLoad s rn rt rm).completes h
  · exact (ldrbLitT1_isLoad imm12 ht).completes h
  · exact (ldrbImmT2_isLoad imm12 ht).completes h
  · exact (ldrbRegT2_isLoad imm2 ht hm).completes h
  · exact (ldrbImmT3_isLoad imm8 ht notPC form inSubset distinct).completes h

/-! ## Stores -/

/-- An instruction that passes its tests and is one store of at most eight bytes. -/
theorem storeAt_of_storeSingle {i : Instr} {s : State} {g : Handler Unit} {rt : RegNum} {size : Nat} {f : AddrForm} {a : Word}
    {wb : Option (RegNum × Word)} (h : s.served) (hn : size ≤ 8) (e : exec i s = runHandler g s)
    (run : g s = storeSingle rt size f s) (ha : f.addressIn s = a) (hw : f.writeback s = wb) : StoreAt i s rt size a wb := by
  subst ha hw
  obtain ⟨t, ht, w⟩ := storeSingle_spec h rt size f
  exact storeDone_of hn e (run.trans ht) w

/-- Settles O27: on the operands of its rule each encoding passes its tests and is a store of one word. -/
theorem wordStores : Obligations.WordStores := by
  intro s h
  have completes {i g rt f a wb} := @storeAt_of_storeSingle i s g rt 4 f a wb h (by decide)
  refine ⟨fun cond p u w rn rt rm imm12 imm5 ty inSubset => ⟨fun distinct => ?_, fun mNotPC distinct => ?_⟩,
    fun rn rt rm imm5 imm8 => ⟨?_, ?_, ?_⟩,
    fun rn rt rm p u w imm12 imm8 imm2 tNotPC notPC => ⟨?_, fun hm => ?_, fun form inSubset distinct => ?_⟩⟩
  · have ok := writeback_distinct_notPC fun hw => distinct (writesBack_iff.1 hw)
    exact completes rfl ((notInSubsetIf_pass (not_translated inSubset)).trans (unpredictableIf_pass ok)) rfl rfl
  · have ok : (rm == 15 || (!p || w) && (rn == 15 || rn == rt)) = false := Bool.or_eq_false_iff.2
      ⟨beq_false_of_ne mNotPC, writeback_distinct_notPC fun hw => distinct (writesBack_iff.1 hw)⟩
    exact completes rfl ((notInSubsetIf_pass (not_translated inSubset)).trans (unpredictableIf_pass ok)) rfl rfl
  · exact completes rfl rfl rfl rfl
  · exact completes rfl rfl (congrArg (s.operand (lowReg rn) + ·) (shift_lsl_zero _ _)) rfl
  · exact completes rfl rfl rfl rfl
  · have ok : (rn == 15 || rt == 15) = false := Bool.or_eq_false_iff.2 ⟨beq_false_of_ne notPC, beq_false_of_ne tNotPC⟩
    exact completes rfl (unpredictableIf_pass ok) rfl rfl
  · have ok : (rn == 15 || badReg rm || rt == 15) = false := by
      rw [beq_false_of_ne notPC, hm, beq_false_of_ne tNotPC]
      rfl
    exact completes rfl (unpredictableIf_pass ok) rfl rfl
  · have ok : (!p && !w || rn == 15 || rt == 15 || w && rn == rt) = false := by
      rw [indexed_or_writesBack form, beq_false_of_ne notPC, beq_false_of_ne tNotPC, writeback_distinct distinct]
      rfl
    exact completes rfl ((notInSubsetIf_pass (not_translatedT inSubset)).trans (unpredictableIf_pass ok)) rfl rfl

/-- Settles O28: on the operands of its rule each encoding passes its tests and is a store of one byte. -/
theorem byteStores : Obligations.ByteStores := by
  intro s h
  have completes {i g rt f a wb} := @storeAt_of_storeSingle i s g rt 1 f a wb h (by decide)
  refine ⟨fun cond p u w rn rt rm imm12 imm5 ty inSubset tNotPC => ⟨fun distinct => ?_, fun mNotPC distinct => ?_⟩,
    fun rn rt rm imm5 => ⟨?_, ?_⟩,
    fun rn rt rm p u w imm12 imm8 imm2 ht notPC => ⟨?_, fun hm => ?_, fun form inSubset distinct => ?_⟩⟩
  · have ok : (rt == 15 || (!p || w) && (rn == 15 || rn == rt)) = false := Bool.or_eq_false_iff.2
      ⟨beq_false_of_ne tNotPC, writeback_distinct_notPC fun hw => distinct (writesBack_iff.1 hw)⟩
    exact completes rfl ((notInSubsetIf_pass (not_translated inSubset)).trans (unpredictableIf_pass ok)) rfl rfl
  · have ok : (rm == 15 || rt == 15 || (!p || w) && (rn == 15 || rn == rt)) = false := by
      rw [beq_false_of_ne mNotPC, beq_false_of_ne tNotPC, writeback_distinct_notPC fun hw => distinct (writesBack_iff.1 hw)]
      rfl
    exact completes rfl ((notInSubsetIf_pass (not_translated inSubset)).trans (unpredictableIf_pass ok)) rfl rfl
  · exact completes rfl rfl rfl rfl
  · exact completes rfl rfl (congrArg (s.operand (lowReg rn) + ·) (shift_lsl_zero _ _)) rfl
  · exact completes rfl (unpredictableIf_pass (Bool.or_eq_false_iff.2 ⟨beq_false_of_ne notPC, ht⟩)) rfl rfl
  · have ok : (rn == 15 || badReg rm || badReg rt) = false := by
      rw [beq_false_of_ne notPC, hm, ht]
      rfl
    exact completes rfl (unpredictableIf_pass ok) rfl rfl
  · have ok : (!p && !w || rn == 15 || badReg rt || w && rn == rt) = false := by
      rw [indexed_or_writesBack form, beq_false_of_ne notPC, ht, writeback_distinct distinct]
      rfl
    exact completes rfl ((notInSubsetIf_pass (not_translatedT inSubset)).trans (unpredictableIf_pass ok)) rfl rfl

end Sys2Proof.Machine
end

section
/-! Proofs of the statement about loads that fail (60_exceptions.md rules R402, R403, R409): single loads, table branches and loads of
lists, on the operands of their rules, from bytes that are not all mapped. -/

namespace Sys2Proof.Machine

/-! ## A test in front of a load of a list -/

section Formats

variable {i : Instr} {s : State} {b : Bool} {regs : BitVec 16}

theorem loadManyStops_of_pop (h : s.served) (hb : b = false)
    (e : exec i s = runHandler (unpredictableIf b >>= fun _ => pop regs) s) :
    LoadManyStops i s regs (s.getCore 13) 13 true := by
  intro vals j hj mapped unmapped
  obtain ⟨t, ht, w⟩ := pop_unmapped h regs vals hj mapped unmapped
  exact loadManyStops_of e ((unpredictableIf_pass hb).trans ht) w

theorem loadManyStops_of_loadMultiple {n : RegNum} {wback : Bool} (h : s.served) (v : Variant) (hb : b = false)
    (e : exec i s = runHandler (unpredictableIf b >>= fun _ => loadMultiple v n regs wback) s) :
    LoadManyStops i s regs (v.firstAddress (s.operand n) regs) n wback := by
  rw [← v.add_firstOffset]
  intro vals j hj mapped unmapped
  obtain ⟨t, ht, w⟩ := loadMultiple_unmapped h v n regs wback vals hj mapped unmapped
  exact loadManyStops_of e ((unpredictableIf_pass hb).trans ht) w

theorem vpopStops_of_vpop {l : ExtList} (h : s.served) (hl : l.first + l.count ≤ 32) (hb : b = false)
    (e : exec i s = runHandler (unpredictableIf b >>= fun _ => vpop l) s) : VPopStops i s l := by
  intro vals j hj mapped unmapped
  obtain ⟨t, ht, loaded, ext, core, status, mem, block⟩ := vpop_unmapped h l vals hl hj mapped unmapped
  exact ⟨_, raises_of e ((unpredictableIf_pass hb).trans ht), rfl, loaded, ext, core, status,
    fun x => by rw [State.raise_mem, mem], block.trans ⟨rfl, rfl, rfl, rfl, rfl, rfl, rfl⟩⟩

end Formats

theorem VPopOf.stops {l : ExtList} {i : Instr} {s : State} (hi : VPopOf l i) (h : s.served) : VPopStops i s l := by
  obtain ⟨c, d, v, n, hi, rfl, ok⟩ | ⟨c, d, v, n, hi, rfl, ok⟩ := hi
  · obtain ⟨-, -, -, hl⟩ := extListDBad_eq_false_iff.1 ok
    obtain rfl | rfl := hi <;> exact vpopStops_of_vpop h hl ok rfl
  · obtain ⟨-, hl⟩ := extListSBad_eq_false_iff.1 ok
    obtain rfl | rfl := hi <;> exact vpopStops_of_vpop h hl ok rfl

/-! ## The statement -/

/-- TBB and TBH, on the operands and IT states of their rules, from a table entry that is not mapped (46_branch.md rules R312,
R313). -/
theorem tableBranches_stop {s : State} (h : s.served) (last : s.inITBlock = true → s.lastInITBlock = true) {rn rm : BitVec 4}
    (notSP : rn ≠ 13) (hm : badReg rm = false) :
    (Memory.readLE s.mem (s.operand rn + s.operand rm) 1 = none → StopsReading (.tbbT1 rn rm) s .accessFailure) ∧
    (Memory.readLE s.mem (s.operand rn + s.operand rm <<< 1) 2 = none → StopsReading (.tbhT1 rn rm) s .accessFailure) := by
  have ok : (rn == 13 || badReg rm) = false := Bool.or_eq_false_iff.2 ⟨beq_false_of_ne notSP, hm⟩
  have byte : s.operand rm <<< 0 = s.operand rm := BitVec.shiftLeft_zero _
  have stops {i : Instr} {size scale : Nat}
      (e : exec i s = runHandler (unpredictableIf (rn == 13 || badReg rm) >>= fun _ =>
        unpredictableInITNotLast >>= fun _ => tableBranch rn rm size scale) s)
      (unmapped : Memory.readLE s.mem (s.operand rn + s.operand rm <<< scale) size = none) : StopsReading i s .accessFailure :=
    stopsReading_of e ((tableBranch_unmapped h rn rm size scale unmapped).congr
      ((unpredictableIf_pass ok).trans (unpredictableInITNotLast_allowed last)))
  exact ⟨fun unmapped => stops rfl (by rwa [byte]), fun unmapped => stops rfl unmapped⟩

/-- Settles O35: each single load is a load that stops, and each load of a list passes its test and stops at the item that is not
mapped. -/
theorem failedLoads : Obligations.FailedLoads := by
  intro s h
  refine ⟨⟨fun cond p u w rn rt rm imm12 imm5 ty inSubset => ⟨?_, fun notPC distinct => ?_, fun mNotPC distinct => ?_⟩,
      fun rn rt rm imm5 imm8 => ⟨?_, ?_, ?_, ?_⟩,
      fun rn rt rm p u w imm12 imm8 imm2 last => ⟨?_, fun notPC => ⟨?_, fun hm => ?_, fun form inSubset distinct => ?_⟩⟩⟩,
    ⟨fun cond p u w rn rt rm imm12 imm5 ty inSubset tNotPC =>
        ⟨?_, fun notPC distinct => ?_, fun mNotPC distinct => ?_⟩,
      fun rn rt rm imm5 => ⟨?_, ?_⟩,
      fun rn rt rm p u w imm12 imm8 imm2 ht => ⟨?_, fun notPC => ⟨?_, fun hm => ?_, fun form inSubset distinct => ?_⟩⟩⟩,
    fun last rn rm notSP hm => tableBranches_stop h last notSP hm,
    fun cond regs nonempty old => ?_, fun cond rt sp => ?_, fun p regs nonempty last => ?_,
    fun p m regs two notBoth last => ?_, fun rt sp last => ?_,
    fun cond d v n => ⟨fun even pos few fits => ?_, fun pos fits => ?_⟩,
    fun w => ⟨fun cond rn regs notPC nonempty old => ?_, fun rn regs nonempty => ?_,
      fun rn p m regs notPC two notBoth last unlisted => ?_⟩⟩
  -- LDR
  · exact (ldrLitA1_isLoad s cond imm12).stops h
  · exact (ldrImmA1_isLoad s cond imm12 inSubset notPC distinct).stops h
  · exact (ldrRegA1_isLoad s cond imm5 ty inSubset mNotPC distinct).stops h
  · exact (ldrImmT1_isLoad s rn rt imm5).stops h
  · exact (ldrRegT1_isLoad s rn rt rm).stops h
  · exact (ldrImmT2_isLoad s rt imm8).stops h
  · exact (ldrLitT1_isLoad s rt imm8).stops h
  · exact (ldrLitT2_isLoad imm12 last).stops h
  · exact (ldrImmT3_isLoad imm12 last).stops h
  · exact (ldrRegT2_isLoad imm2 last hm).stops h
  · exact (ldrImmT4_isLoad imm8 last notPC form inSubset distinct).stops h
  -- LDRB
  · exact (ldrbLitA1_isLoad s cond imm12 tNotPC).stops h
  · exact (ldrbImmA1_isLoad s cond imm12 inSubset tNotPC notPC distinct).stops h
  · exact (ldrbRegA1_isLoad s cond imm5 ty inSubset tNotPC mNotPC distinct).stops h
  · exact (ldrbImmT1_isLoad s rn rt imm5).stops h
  · exact (ldrbRegT1_isLoad s rn rt rm).stops h
  · exact (ldrbLitT1_isLoad imm12 ht).stops h
  · exact (ldrbImmT2_isLoad imm12 ht).stops h
  · exact (ldrbRegT2_isLoad imm2 ht hm).stops h
  · exact (ldrbImmT3_isLoad imm8 ht notPC form inSubset distinct).stops h
  -- POP
  · refine loadManyStops_of_pop h (b := bitCount regs == 0 || regs.getLsbD 13 && decide (7 ≤ s.arch.version)) ?_ rfl
    simpa [nonempty] using old
  · exact loadManyStops_of_pop h (beq_false_of_ne sp) rfl
  · exact loadManyStops_of_pop h (Bool.or_eq_false_iff.2 ⟨beq_false_of_ne nonempty, pcLoad_allowed last⟩) rfl
  · refine loadManyStops_of_pop h (b := decide (bitCount (listPM13 p m regs) < 2) || p && m ||
      p && (s.inITBlock && !s.lastInITBlock)) ?_ rfl
    rw [decide_eq_false (Nat.not_lt.2 two), notBoth, pcLoad_allowed last]
    rfl
  · exact loadManyStops_of_pop h (Bool.or_eq_false_iff.2 ⟨beq_false_of_ne sp, notPC_or_last last⟩) rfl
  -- VPOP
  · have ok : extListDBad n (extListD d v n) = false := extListDBad_eq_false_iff.2 ⟨even, pos, few, fits⟩
    have stops {i : Instr} hi := VPopOf.stops (i := i) (.inl ⟨cond, d, v, n, hi, rfl, ok⟩) h
    exact ⟨stops (.inl rfl), stops (.inr rfl)⟩
  · have ok : extListSBad (extListS d v n) = false := extListSBad_eq_false_iff.2 ⟨pos, fits⟩
    have stops {i : Instr} hi := VPopOf.stops (i := i) (.inr ⟨cond, d, v, n, hi, rfl, ok⟩) h
    exact ⟨stops (.inl rfl), stops (.inr rfl)⟩
  -- LDM
  · have ok : (rn == 15 || bitCount regs == 0 || w && regs.getLsbD rn.toNat && decide (7 ≤ s.arch.version)) = false := by
      rw [beq_false_of_ne notPC, beq_false_of_ne nonempty]
      simpa using old
    exact ⟨loadManyStops_of_loadMultiple h .ia ok rfl, loadManyStops_of_loadMultiple h .da ok rfl,
      loadManyStops_of_loadMultiple h .db ok rfl, loadManyStops_of_loadMultiple h .ib ok rfl⟩
  · exact loadManyStops_of_loadMultiple h .ia (beq_false_of_ne nonempty) rfl
  · have ok : (rn == 15 || decide (bitCount (listPM13 p m regs) < 2) || p && m || p && (s.inITBlock && !s.lastInITBlock)
        || w && (listPM13 p m regs).getLsbD rn.toNat) = false := by
      rw [beq_false_of_ne notPC, decide_eq_false (Nat.not_lt.2 two), notBoth, pcLoad_allowed last,
        Bool.and_eq_false_imp.2 unlisted]
      rfl
    exact ⟨loadManyStops_of_loadMultiple h .ia ok rfl, loadManyStops_of_loadMultiple h .db ok rfl⟩

end Sys2Proof.Machine
end

section
/-! Proofs of the statements about UNPREDICTABLE operands (60_exceptions.md rules R402, R405): the tests of a rule stand in front of
its first port call, and one of them fails. -/

namespace Sys2Proof.Machine

/-! ## A test that fails -/

section Tests

variable {i : Instr} {s : State} {b c : Bool} {g : Handler Unit} {k : Unit → Handler Unit}

theorem unpredictable_of_run (e : exec i s = runHandler g s) (stop : g s = .error .unpredictableOperands s) :
    Unpredictable i s := raises_of e stop

theorem unpredictable_of_test (bad : b = true) (e : exec i s = runHandler (unpredictableIf b >>= k) s) :
    Unpredictable i s := unpredictable_of_run e (unpredictableIf_stop bad)

/-- Operands that are not outside the subset and fail the test after that (R405). -/
theorem unpredictable_of_inSubset_test (inSubset : c = false) (bad : b = true)
    (e : exec i s = runHandler (notInSubsetIf c >>= fun _ => unpredictableIf b >>= k) s) : Unpredictable i s :=
  unpredictable_of_run e ((notInSubsetIf_pass inSubset).trans (unpredictableIf_stop bad))

/-- A test in front of one that fails: it fails too, or what follows it stops. -/
theorem unpredictableIf_then_stop (stop : k () s = .error .unpredictableOperands s) :
    (unpredictableIf b >>= k) s = .error .unpredictableOperands s := by
  cases hb : b with
  | true => exact unpredictableIf_stop rfl
  | false => exact (unpredictableIf_pass rfl).trans stop

/-- A test on registers in front of the expansion of an immediate (30_encoding.md rule R106): one of them fails. -/
theorem thumbImm_stop {i1 : BitVec 1} {imm3 : BitVec 3} {imm8 : BitVec 8} {j : Operand2 → Handler Unit}
    (bad : b = true ∨ thumbExpandImmC (i1 ++ imm3 ++ imm8) s.carry = none) :
    (unpredictableIf b >>= fun _ => thumbImm i1 imm3 imm8 >>= j) s = .error .unpredictableOperands s :=
  bad.elim unpredictableIf_stop fun noImm => unpredictableIf_then_stop (bind_error (thumbImm_none noImm))

theorem unpredictable_of_thumbImm {i1 : BitVec 1} {imm3 : BitVec 3} {imm8 : BitVec 8} {j : Operand2 → Handler Unit}
    (bad : b = true ∨ thumbExpandImmC (i1 ++ imm3 ++ imm8) s.carry = none)
    (e : exec i s = runHandler (unpredictableIf b >>= fun _ => thumbImm i1 imm3 imm8 >>= j) s) : Unpredictable i s :=
  unpredictable_of_run e (thumbImm_stop bad)

end Tests

/-! ## Data processing and shifts -/

/-- Where the PC is another instruction, the bad register is SP alone. -/
theorem badReg_of_notPC {n : RegNum} (notPC : n ≠ 15) : badReg n = (n == 13) := by
  rw [badReg, beq_false_of_ne notPC, Bool.or_false]

/-- Settles O31: on these operands the first test of each handler fails, or the expansion of its immediate. -/
theorem unpredictableDataProcessing : Obligations.UnpredictableDataProcessing := by
  intro s
  refine ⟨fun cond setS rd rm rn pc => ?_, fun rm rd inside => ?_, fun n rm rn bad => ?_, fun n rm rdn pc bad => ?_,
    fun i1 setS rn rd imm3 imm8 => ?_, fun setS rn rd rm imm3 imm2 ty => ?_⟩
  · have test : (rd == 15 || rn == 15 || rm == 15) = true := by simpa [or_assoc] using pc
    exact ⟨unpredictable_of_test test rfl, unpredictable_of_test test rfl, unpredictable_of_test test rfl,
      unpredictable_of_test test rfl⟩
  · exact unpredictable_of_run rfl (inIT_pass.trans (unpredictableIf_stop inside))
  · exact unpredictable_of_test (by simpa [or_assoc] using bad) rfl
  · exact unpredictable_of_run rfl (inITNotLast_pass.trans (unpredictableIf_stop (by simpa [pc] using bad)))
  · intro noImm
    refine ⟨fun bad => ?_, fun bad => ?_, fun notPC bad => ?_, fun bad => ?_, fun bad => ?_, fun bad => ?_⟩
    · have test : (badReg rd || badReg rn) = true ∨ noImm := by simpa [or_assoc] using bad
      refine ⟨unpredictable_of_thumbImm test rfl, unpredictable_of_thumbImm test rfl, unpredictable_of_thumbImm test rfl,
        unpredictable_of_thumbImm test rfl, fun notPC => ?_⟩
      rw [badReg_of_notPC notPC] at test
      exact unpredictable_of_run rfl ((notInSubsetIf_pass (beq_false_of_ne notPC)).trans (thumbImm_stop test))
    · have test : (if rn == 13 then rd == 15 else badReg rd || rn == 15) = true ∨ noImm := by simpa using bad
      exact ⟨unpredictable_of_thumbImm test rfl, unpredictable_of_thumbImm test rfl⟩
    · have inSubset := beq_false_of_ne notPC
      have test : (if rn == 13 then rd == 15 else badReg rd) = true := by simpa using bad
      exact ⟨unpredictable_of_inSubset_test inSubset test rfl, unpredictable_of_inSubset_test inSubset test rfl⟩
    · exact unpredictable_of_thumbImm bad rfl
    · have test : (rn == 15) = true ∨ noImm := by simpa using bad
      exact ⟨unpredictable_of_thumbImm test rfl, unpredictable_of_thumbImm test rfl⟩
    · exact ⟨unpredictable_of_thumbImm bad rfl, unpredictable_of_thumbImm bad rfl⟩
  · intro sh
    refine ⟨fun bad => ?_, fun bad => ?_, fun bad => ?_, fun bad => ?_, fun bad => ?_⟩
    · have test : (badReg rd || badReg rn || badReg rm) = true := by simpa [or_assoc] using bad
      refine ⟨unpredictable_of_test test rfl, unpredictable_of_test test rfl, unpredictable_of_test test rfl,
        unpredictable_of_test test rfl, unpredictable_of_test test rfl, unpredictable_of_test test rfl,
        unpredictable_of_test test rfl, unpredictable_of_test test rfl, fun notPC => ?_⟩
      rw [badReg_of_notPC notPC] at test
      exact unpredictable_of_inSubset_test (beq_false_of_ne notPC) test rfl
    · have test : (badReg rd || badReg rm) = true := by simpa using bad
      exact ⟨unpredictable_of_test test rfl, unpredictable_of_test test rfl, unpredictable_of_test test rfl,
        unpredictable_of_test test rfl, unpredictable_of_test test rfl, unpredictable_of_test test rfl⟩
    · have test : (if rn == 13 then rd == 13 && (sh.1 != .lsl || decide (3 < sh.2)) || rd == 15 || badReg rm
          else rd == 13 || rd == 15 || rn == 15 || badReg rm) = true := by
        by_cases sp : rn = 13
        · rw [if_pos sp, not_and_or, Nat.not_le] at bad
          rw [if_pos (beq_iff_eq.2 sp)]
          simp only [Bool.or_eq_true, Bool.and_eq_true, beq_iff_eq, bne_iff_ne, decide_eq_true_eq]
          tauto
        · rw [if_neg sp] at bad
          rw [if_neg (mt beq_iff_eq.1 sp)]
          simp only [Bool.or_eq_true, beq_iff_eq]
          tauto
      exact ⟨unpredictable_of_test test rfl, unpredictable_of_test test rfl⟩
    · have test : (rn == 15 || badReg rm) = true := by simpa using bad
      exact ⟨unpredictable_of_test test rfl, unpredictable_of_test test rfl⟩
    · have test : (badReg rn || badReg rm) = true := by simpa using bad
      exact ⟨unpredictable_of_test test rfl, unpredictable_of_test test rfl⟩

/-! ## Single loads and stores -/

/-- A load of the PC inside an IT block, not last in it (41_condition_it.md rule R179). -/
theorem late_iff {t : RegNum} {s : State} : (t == 15 && (s.inITBlock && !s.lastInITBlock)) = true ↔
    t = 15 ∧ s.inITBlock = true ∧ s.lastInITBlock = false := by simp

/-- A Thumb word with P = 0 and W = 0 is no instruction, and one with W = 1 does not write back the register it transfers. -/
theorem noForm_iff {p w : Bool} {n t : RegNum} :
    (!p && !w || w && n == t) = true ↔ (p = false ∧ w = false) ∨ (w = true ∧ n = t) := by simp

/-- The store forms test their registers between the two halves of that test. -/
theorem noForm_around {a b c d : Bool} (h : a = true ∨ b = true ∨ (c || d) = true) : (c || a || b || d) = true := by
  simp only [Bool.or_eq_true] at h ⊢
  tauto

/-- Settles O33: the operands are not outside the subset, and the test after that fails. -/
theorem unpredictableLoadsAndStores : Obligations.UnpredictableLoadsAndStores := by
  intro s
  refine ⟨fun cond p u w rn rt rm imm12 imm5 ty inSubset => ?_, fun rn rt rm p u w imm12 imm8 imm2 => ?_⟩
  · have inSubset := not_translated inSubset
    refine ⟨fun bad => ?_, fun bad => ?_, fun bad => ?_, fun bad => ?_, fun bad => ?_, fun bad => ?_, fun bad => ?_,
      fun bad => ?_, fun bad => ?_⟩
    · exact unpredictable_of_inSubset_test inSubset (by simpa using bad) rfl
    · exact unpredictable_of_inSubset_test inSubset (by simpa using bad) rfl
    · exact unpredictable_of_test (beq_iff_eq.2 bad) rfl
    · exact unpredictable_of_inSubset_test inSubset (by simpa [or_comm, or_left_comm] using bad) rfl
    · exact unpredictable_of_inSubset_test inSubset (by simpa [or_left_comm, or_assoc] using bad) rfl
    · exact unpredictable_of_inSubset_test inSubset (by simpa using bad) rfl
    · exact unpredictable_of_inSubset_test inSubset (by simpa using bad) rfl
    · exact unpredictable_of_inSubset_test inSubset (by simpa using bad) rfl
    · exact unpredictable_of_inSubset_test inSubset (by simpa [or_left_comm, or_assoc] using bad) rfl
  · intro late noForm
    refine ⟨fun bad => ?_, fun bad => ?_, fun inSubset bad => ?_, fun sp => ?_, fun notPC bad => ?_,
      fun inSubset notPreload bad => ?_, fun bad => ?_, fun bad => ?_, fun inSubset bad => ?_, fun bad => ?_, fun bad => ?_,
      fun inSubset bad => ?_⟩
    · have stop {k : Unit → Handler Unit} :
          (inITNotLast >>= fun notLast => unpredictableIf (rt == 15 && notLast) >>= k) s = .error .unpredictableOperands s :=
        inITNotLast_pass.trans (unpredictableIf_stop (late_iff.2 bad))
      exact ⟨unpredictable_of_run rfl stop, unpredictable_of_run rfl stop⟩
    · have test := Bool.or_eq_true_iff.2 (bad.symm.imp_right late_iff.2)
      exact unpredictable_of_run rfl (inITNotLast_pass.trans (unpredictableIf_stop test))
    · have test := Bool.or_eq_true_iff.2 (bad.symm.imp noForm_iff.2 late_iff.2)
      exact unpredictable_of_run rfl ((notInSubsetIf_pass (not_translatedT inSubset)).trans
        (inITNotLast_pass.trans (unpredictableIf_stop test)))
    · have notPC : (rt == 15) = false := by rw [sp]; rfl
      exact ⟨unpredictable_of_inSubset_test notPC (beq_iff_eq.2 sp) rfl,
        unpredictable_of_inSubset_test notPC (beq_iff_eq.2 sp) rfl⟩
    · exact unpredictable_of_inSubset_test (beq_false_of_ne notPC) (by simpa [or_comm] using bad) rfl
    · have inSubset : (p && u && !w || rt == 15 && p && !u && !w) = false :=
        Bool.or_eq_false_iff.2 ⟨not_translatedT inSubset, by simpa using notPreload⟩
      refine unpredictable_of_inSubset_test (b := !p && !w || badReg rt || w && rn == rt) inSubset ?_ rfl
      rw [Bool.or_right_comm]
      exact Bool.or_eq_true_iff.2 (bad.symm.imp_left noForm_iff.2)
    · exact unpredictable_of_test (by simpa using bad) rfl
    · exact unpredictable_of_test (by simpa [or_comm, or_left_comm] using bad) rfl
    · have test := noForm_around (bad.imp beq_iff_eq.2 (Or.imp beq_iff_eq.2 noForm_iff.2))
      exact unpredictable_of_inSubset_test (not_translatedT inSubset) test rfl
    · exact unpredictable_of_test (by simpa using bad) rfl
    · exact unpredictable_of_test (by simpa [or_comm, or_left_comm] using bad) rfl
    · have test := noForm_around (bad.imp beq_iff_eq.2 (Or.imp_right noForm_iff.2))
      exact unpredictable_of_inSubset_test (not_translatedT inSubset) test rfl

/-! ## Branches, IT, the stack and multiple transfers -/

section InsideIT

variable {i : Instr} {s : State} {b : Bool} {k : Unit → Handler Unit}

/-- An instruction that must be last in an IT block, and is in one but not last (41_condition_it.md rule R179). -/
theorem unpredictable_of_late (late : (s.inITBlock && !s.lastInITBlock) = true)
    (e : exec i s = runHandler (unpredictableInITNotLast >>= k) s) : Unpredictable i s :=
  unpredictable_of_run e (unpredictableInITNotLast_stop late)

/-- The same behind a test of other operands. -/
theorem unpredictable_of_test_or_late (late : (s.inITBlock && !s.lastInITBlock) = true)
    (e : exec i s = runHandler (unpredictableIf b >>= fun _ => unpredictableInITNotLast >>= k) s) : Unpredictable i s :=
  unpredictable_of_run e (unpredictableIf_then_stop (unpredictableInITNotLast_stop late))

/-- An instruction that must not stand in an IT block. -/
theorem unpredictable_of_inside (inside : s.inITBlock = true)
    (e : exec i s = runHandler (unpredictableInIT >>= k) s) : Unpredictable i s :=
  unpredictable_of_run e (unpredictableInIT_stop inside)

end InsideIT

theorem initIT_append_eq_none {firstcond mask : BitVec 4} (h : NoSession firstcond mask) : initIT (firstcond ++ mask) = none := by
  have hm : (firstcond ++ mask).extractLsb' 0 4 = mask := BitVec.extractLsb'_append_eq_right
  have hf : (firstcond ++ mask).extractLsb' 4 4 = firstcond := BitVec.extractLsb'_append_eq_left
  exact initIT_eq_none (by rwa [hf, hm])

/-- The mask of a window of one instruction is `1000`. -/
theorem trailingZeros_ne_three : ∀ mask : BitVec 4, mask ≠ 8 → trailingZeros mask ≠ 3 := by decide

/-- IT with a mask, inside an IT block or with conditions from which no session starts (rule R180). -/
theorem unpredictable_itT1 {s : State} {firstcond mask : BitVec 4} (hm : mask ≠ 0)
    (bad : s.inITBlock = true ∨ firstcond = 15 ∨ (firstcond = 14 ∧ mask ≠ 8)) : Unpredictable (.itT1 firstcond mask) s := by
  refine unpredictable_of_run rfl ((notInSubsetIf_pass (beq_false_of_ne hm)).trans ?_)
  cases outside : s.inITBlock with
  | true => exact unpredictableInIT_stop outside
  | false =>
    have conditions := bad.resolve_left (Bool.eq_false_iff.1 outside)
    have noSession : NoSession firstcond mask := .inr (conditions.imp_right (.imp_right (trailingZeros_ne_three mask)))
    rw [unpredictableInIT_pass outside, initIT_append_eq_none noSession]
    rfl

/-! An operand that the statement gives as a literal is a variable with an equation in these lemmas: the test then stands in the
handler as the rule writes it. -/

section Literals

variable {s : State}

/-- A test that is the first of two alternatives. -/
theorem test_left {b c : Bool} (h : b = true) : (b || c) = true := Bool.or_eq_true_iff.2 (.inl h)

theorem unpredictable_blxReg_pc {rm : BitVec 4} (pc : rm = 15) :
    (∀ cond, Unpredictable (.blxRegA1 cond rm) s) ∧ Unpredictable (.blxRegT1 rm) s :=
  ⟨fun _ => unpredictable_of_test (beq_iff_eq.2 pc) rfl, unpredictable_of_test (beq_iff_eq.2 pc) rfl⟩

theorem unpredictable_bT1_always {cond : BitVec 4} (always : cond = 14) (imm8 : BitVec 8) : Unpredictable (.bT1 cond imm8) s :=
  unpredictable_of_test (beq_iff_eq.2 always) rfl

theorem unpredictable_blxImmT2_odd {h : BitVec 1} (odd : h = 1) (sgn : BitVec 1) (imm10 : BitVec 10) (j1 j2 : BitVec 1)
    (imm10l : BitVec 10) : Unpredictable (.blxImmT2 sgn imm10 j1 j2 imm10l h) s :=
  unpredictable_of_test (beq_iff_eq.2 odd) rfl

theorem unpredictable_pushA1_empty {regs : BitVec 16} (empty : bitCount regs = 0) (cond : BitVec 4) :
    Unpredictable (.pushA1 cond regs) s :=
  unpredictable_of_test (beq_iff_eq.2 empty) rfl

theorem unpredictable_popA1_empty {regs : BitVec 16} (empty : bitCount regs = 0) (cond : BitVec 4) :
    Unpredictable (.popA1 cond regs) s :=
  unpredictable_of_run rfl (archVersion_pass.trans (unpredictableIf_stop (test_left (beq_iff_eq.2 empty))))

theorem unpredictable_pushT1_empty {m : Bool} {regs : BitVec 8} (empty : bitCount (listM8 m regs) = 0) :
    Unpredictable (.pushT1 m regs) s :=
  unpredictable_of_test (beq_iff_eq.2 empty) rfl

theorem unpredictable_popT1_empty {p : Bool} {regs : BitVec 8} (empty : bitCount (listP8 p regs) = 0) :
    Unpredictable (.popT1 p regs) s :=
  unpredictable_of_run rfl (inITNotLast_pass.trans (unpredictableIf_stop (test_left (beq_iff_eq.2 empty))))

theorem unpredictable_multipleT1_empty {regs : BitVec 8} (empty : bitCount (list8 regs) = 0) (rn : BitVec 3) :
    Unpredictable (.ldmT1 rn regs) s ∧ Unpredictable (.stmT1 rn regs) s :=
  ⟨unpredictable_of_test (beq_iff_eq.2 empty) rfl, unpredictable_of_test (beq_iff_eq.2 empty) rfl⟩

theorem unpredictable_armOneReg_sp {rt : BitVec 4} (sp : rt = 13) (cond : BitVec 4) :
    Unpredictable (.pushA2 cond rt) s ∧ Unpredictable (.popA2 cond rt) s :=
  ⟨unpredictable_of_test (beq_iff_eq.2 sp) rfl, unpredictable_of_test (beq_iff_eq.2 sp) rfl⟩

theorem unpredictable_pushT3 {rt : BitVec 4} (bad : rt = 13 ∨ rt = 15) : Unpredictable (.pushT3 rt) s :=
  unpredictable_of_test (by simpa using bad) rfl

theorem unpredictable_popT3 {rt : BitVec 4} (bad : rt = 13 ∨ (rt = 15 ∧ s.inITBlock = true ∧ s.lastInITBlock = false)) :
    Unpredictable (.popT3 rt) s :=
  unpredictable_of_run rfl (inITNotLast_pass.trans (unpredictableIf_stop (by simpa using bad)))

end Literals

/-- The D lists that are UNPREDICTABLE (42_stack.md rule R203). -/
theorem extListDBad_iff {imm8 : BitVec 8} {l : ExtList} : extListDBad imm8 l = true ↔
    imm8.getLsbD 0 = true ∨ l.count = 0 ∨ 16 < l.count ∨ 32 < l.first + l.count := by
  simp [extListDBad, or_assoc]

/-- The S lists that are UNPREDICTABLE (R203). -/
theorem extListSBad_iff {l : ExtList} : extListSBad l = true ↔ l.count = 0 ∨ 32 < l.first + l.count := by
  simp [extListSBad]

/-- Settles O32: on these operands the first test of each handler fails, or that on the IT state. -/
theorem unpredictableBranchesAndLists : Obligations.UnpredictableBranchesAndLists := by
  intro s
  refine ⟨(unpredictable_blxReg_pc rfl).1, (unpredictable_blxReg_pc rfl).2, unpredictable_bT1_always rfl,
    unpredictable_blxImmT2_odd rfl, fun rn rm bad => ?_, fun inside notLast => ?_,
    fun inside => ⟨fun cond imm8 => ?_, fun sgn cond imm6 j1 j2 imm11 inSubset => ?_,
      fun i1 imm5 rn => ⟨unpredictable_of_inside inside rfl, unpredictable_of_inside inside rfl⟩⟩,
    fun fc mask hm bad => unpredictable_itT1 hm bad,
    fun cond => ⟨unpredictable_pushA1_empty rfl cond, unpredictable_popA1_empty rfl cond,
      (unpredictable_armOneReg_sp rfl cond).1, (unpredictable_armOneReg_sp rfl cond).2, fun regs listed new => ?_⟩,
    unpredictable_pushT1_empty rfl, unpredictable_popT1_empty rfl, unpredictable_pushT3 (.inl rfl), unpredictable_pushT3 (.inr rfl),
    unpredictable_popT3 (.inl rfl),
    fun m p regs => ⟨fun few => unpredictable_of_test (decide_eq_true few) rfl, fun bad => ?_⟩,
    fun cond d v n => ⟨fun bad => ?_, fun bad => ?_⟩, fun cond w rn regs => ⟨fun bad => ?_, fun wback listed new => ?_⟩,
    unpredictable_multipleT1_empty rfl, fun w rn p m regs => ⟨fun bad => ?_, fun bad => ?_⟩⟩
  · have test : (rn == 13 || badReg rm) = true := by simpa using bad
    exact ⟨unpredictable_of_test test rfl, unpredictable_of_test test rfl⟩
  · have late : (s.inITBlock && !s.lastInITBlock) = true := by simp [inside, notLast]
    refine ⟨fun rm => ⟨unpredictable_of_test_or_late late rfl, unpredictable_of_late late rfl⟩,
      fun imm11 => unpredictable_of_late late rfl,
      fun sgn imm10 j1 j2 => ⟨fun imm11 => ⟨unpredictable_of_late late rfl, unpredictable_of_late late rfl⟩,
        fun imm10l h => unpredictable_of_test_or_late late rfl⟩,
      fun rn rm => ⟨unpredictable_of_test_or_late late rfl, unpredictable_of_test_or_late late rfl⟩,
      fun regs => ?_, fun m regs => ?_, unpredictable_popT3 (.inr ⟨rfl, inside, notLast⟩), fun w rn m regs => ?_⟩
    · exact unpredictable_of_run rfl (inITNotLast_pass.trans (unpredictableIf_stop (by simp [inside, notLast])))
    · exact unpredictable_of_run rfl (inITNotLast_pass.trans (unpredictableIf_stop (by simp [inside, notLast])))
    · constructor
      · exact unpredictable_of_run rfl (inITNotLast_pass.trans (unpredictableIf_stop (by simp [inside, notLast])))
      · exact unpredictable_of_run rfl (inITNotLast_pass.trans (unpredictableIf_stop (by simp [inside, notLast])))
  · exact unpredictable_of_run rfl (unpredictableIf_then_stop (unpredictableInIT_stop inside))
  · have ok : (cond.extractLsb' 1 3 == 7) = false := by
      revert cond
      decide
    exact unpredictable_of_run rfl ((notInSubsetIf_pass ok).trans (unpredictableInIT_stop inside))
  · exact unpredictable_of_run rfl (archVersion_pass.trans (unpredictableIf_stop (by simp [listed, new])))
  · have test : (decide (bitCount (listPM13 p m regs) < 2) || p && m) = true := by simpa using bad
    exact unpredictable_of_run rfl (inITNotLast_pass.trans (unpredictableIf_stop (test_left test)))
  · have test : extListDBad n (extListD d v n) = true := extListDBad_iff.2 bad
    exact ⟨unpredictable_of_test test rfl, unpredictable_of_test test rfl, unpredictable_of_test test rfl,
      unpredictable_of_test test rfl⟩
  · have test : extListSBad (extListS d v n) = true :=
      extListSBad_iff.2 (bad.imp_left fun empty => by rw [empty]; rfl)
    exact ⟨unpredictable_of_test test rfl, unpredictable_of_test test rfl, unpredictable_of_test test rfl,
      unpredictable_of_test test rfl⟩
  · have test : (rn == 15 || bitCount regs == 0) = true :=
      Bool.or_eq_true_iff.2 (bad.imp beq_iff_eq.2 fun empty => by rw [empty]; rfl)
    have stop {k : Unit → Handler Unit} : (archVersion >>= fun version =>
        unpredictableIf (rn == 15 || bitCount regs == 0 || w && regs.getLsbD rn.toNat && decide (7 ≤ version)) >>= k) s =
          .error .unpredictableOperands s :=
      archVersion_pass.trans (unpredictableIf_stop (test_left test))
    exact ⟨unpredictable_of_run rfl stop, unpredictable_of_run rfl stop, unpredictable_of_run rfl stop,
      unpredictable_of_run rfl stop, unpredictable_of_test test rfl, unpredictable_of_test test rfl,
      unpredictable_of_test test rfl, unpredictable_of_test test rfl⟩
  · have stop {k : Unit → Handler Unit} : (archVersion >>= fun version =>
        unpredictableIf (rn == 15 || bitCount regs == 0 || w && regs.getLsbD rn.toNat && decide (7 ≤ version)) >>= k) s =
          .error .unpredictableOperands s :=
      archVersion_pass.trans (unpredictableIf_stop (by simp [wback, listed, new]))
    exact ⟨unpredictable_of_run rfl stop, unpredictable_of_run rfl stop, unpredictable_of_run rfl stop,
      unpredictable_of_run rfl stop⟩
  · have stop {k : Unit → Handler Unit} : (inITNotLast >>= fun notLast =>
        unpredictableIf (rn == 15 || decide (bitCount (listPM13 p m regs) < 2) || p && m || p && notLast
          || w && (listPM13 p m regs).getLsbD rn.toNat) >>= k) s = .error .unpredictableOperands s := by
      refine inITNotLast_pass.trans (unpredictableIf_stop ?_)
      simp only [Bool.or_eq_true, Bool.and_eq_true, beq_iff_eq, decide_eq_true_eq]
      tauto
    exact ⟨unpredictable_of_run rfl stop, unpredictable_of_run rfl stop⟩
  · have test : (rn == 15 || decide (bitCount (listM13 m regs) < 2) || w && (listM13 m regs).getLsbD rn.toNat) = true := by
      simpa [or_assoc] using bad
    exact ⟨unpredictable_of_test test rfl, unpredictable_of_test test rfl⟩

end Sys2Proof.Machine
end

section
/-! Proofs of the statements about SVC, failures, reset and the driver (49_svc_driver.md, 60_exceptions.md, 70_reset_and_hazards.md):
every instruction answers, what `readInstruction` and `evaluateInstruction` do, and what a turn of the run loop is made of. -/

namespace Sys2Proof.Machine

/-! ## SVC (49_svc_driver.md rule R380) -/

/-- An instruction that is a supervisor call with this immediate writes LR, once and tagged, and nothing else. -/
theorem completes_of_supervisorCall {i : Instr} {s : State} {imm32 : Word} (h : s.served)
    (e : exec i s = runHandler (supervisorCall imm32) s) :
    Completes i s fun t => t.getCore 14 = nextNarrow s ∧
      t.writes = .writeRegister (.supervisorCall imm32) (.core 14) ((nextNarrow s).setWidth 64) true :: s.writes ∧
      SameCoreBut [14] s t ∧ SameStatus s t ∧ SameMem s t ∧ SameExt s t := by
  have run : supervisorCall imm32 s = .ok () (s.afterWrite (.supervisorCall imm32) 14 (nextNarrow s)) :=
    linkAfter16_eq_nextNarrow s ▸ (bind_ok (handler_get s)).trans (writeReg_served h _ _ _)
  refine completes_of e run ⟨rfl, rfl, rfl, rfl, rfl, rfl, rfl⟩
    ⟨State.getCore_afterWrite_same s (.supervisorCall imm32) 14 _, rfl, fun k hk => ?_, ⟨rfl, rfl⟩, fun _ => rfl, fun _ => rfl⟩
  exact (State.getCore_afterWrite s (.supervisorCall imm32) 14 k _).trans (if_neg (by simpa using hk))

/-- Settles O29: both encodings are the supervisor call, with their immediate. -/
theorem supervisorCalls : Obligations.SupervisorCalls := by
  intro s h cond imm24 imm8
  exact ⟨completes_of_supervisorCall h rfl, completes_of_supervisorCall h rfl⟩

/-! ## Every instruction answers (60_exceptions.md rules R400, R402) -/

/-- The failure classes that a handler can raise (R401 to R403). -/
def HandlerFailure (f : Failure) : Prop := f = .accessFailure ∨ f = .unsupportedEncoding ∨ f = .unpredictableOperands

/-- A refused port call is an `AccessFailure`, and nothing else that the primitive effects do fails. -/
theorem closedHandlerFailure : Closed (fun _ _ => True) fun f _ _ => HandlerFailure f :=
  .of_ports (fun _ => trivial) (fun _ _ => trivial) (fun _ hf => hf)
    (fun _ _ _ => ⟨fun _ => trivial, fun _ => .inl rfl⟩) (fun _ _ _ _ _ => ⟨fun _ => trivial, fun _ => .inl rfl⟩)
    (fun _ _ _ _ _ => ⟨fun _ => trivial, fun _ => .inl rfl⟩) (fun _ => trivial)
    (fun _ _ _ _ => ⟨fun _ => trivial, fun _ => .inl rfl⟩) (fun _ _ => ⟨fun _ => trivial, fun _ => .inl rfl⟩)

/-- Every instruction answers a next state: it completed, or failed in a class of its own. -/
theorem exec_next (i : Instr) (s : State) :
    ∃ t, exec i s = .next t ∧ ∀ f, t.fault = some f → HandlerFailure f := by
  obtain ⟨u, ⟨e, -⟩ | ⟨f, e, hf⟩⟩ :=
    exec_does_all closedHandlerFailure (fun _ _ hf => .inr hf) (fun _ _ _ _ => trivial) s i
  · exact ⟨_, e, nofun⟩
  · exact ⟨_, e, fun g hg => Option.some.inj hg ▸ hf⟩

/-- Settles O36: an instruction answers, and its failures but for `AccessFailure` are precise. -/
theorem everyInstructionAnswers : Obligations.EveryInstructionAnswers := by
  intro i s
  obtain ⟨t, e, classes⟩ := exec_next i s
  refine ⟨t, e, ?_⟩
  obtain none | access | ⟨f, u, rfl, untouched⟩ := exec_precise s i t e
  · exact .inl none
  · exact .inr (.inl access)
  · obtain rfl | own := classes f rfl
    · exact .inr (.inl rfl)
    · exact .inr (.inr ⟨u, f, untouched, rfl, own⟩)

/-! ## setArchitecture (49_svc_driver.md rule R381) -/

/-- No two variants share a name, so the search stops at the name's own. -/
theorem find?_archNames : ∀ p ∈ archNames, archNames.find? (fun q => q.1 == p.1) = some p := by decide

theorem archOfName_of_known {name : List Char} {p : List Char × ArchVariant} (hp : p ∈ archNames)
    (hn : name.map Char.toLower = p.1) : archOfName name = some p.2 := by
  rw [archOfName, hn, find?_archNames p hp]
  rfl

theorem archOfName_of_unknown {name : List Char} (h : ∀ p ∈ archNames, name.map Char.toLower ≠ p.1) :
    archOfName name = none := by
  rw [archOfName, Option.map_eq_none_iff, List.find?_eq_none]
  exact fun p hp e => h p hp (beq_iff_eq.1 e).symm

/-- Settles O51: the names of the statement are those of the model's table, as their characters. -/
theorem selectingAnArchitecture : Obligations.SelectingAnArchitecture := by
  intro s name known
  have table : archNames = known.map fun p => (p.1.toList, p.2) := rfl
  refine ⟨fun p hp hn => ?_, fun unknown => ?_⟩
  · have hp' : (p.1.toList, p.2) ∈ archNames := table ▸ List.mem_map_of_mem hp
    rw [setArchitecture, archOfName_of_known hp' hn]
  · have unknown' : ∀ q ∈ archNames, name.map Char.toLower ≠ q.1 := by
      rw [table, List.forall_mem_map]
      exact unknown
    rw [setArchitecture, archOfName_of_unknown unknown']

/-! ## evaluateInstruction (49_svc_driver.md rules R384 to R391) -/

theorem evaluateInstruction_of_noLatch {s : State} (h : s.inst.valid = false) :
    evaluateInstruction s = .next (s.raise .noInstruction) :=
  if_neg (by simp [h])

theorem evaluateInstruction_of_noRow {s : State} (valid : s.inst.valid = true)
    (noRow : lookup s.params s.arch s.inst.mode s.inst.width s.inst.raw = none) :
    evaluateInstruction s = .next (s.beginEvaluate.raise .unsupportedEncoding) := by
  rw [evaluateInstruction, if_pos valid, noRow]

theorem evaluateInstruction_of_row {s : State} {i : Instr} (valid : s.inst.valid = true)
    (row : lookup s.params s.arch s.inst.mode s.inst.width s.inst.raw = some i) :
    evaluateInstruction s = evaluateDecoded i s.beginEvaluate := by
  rw [evaluateInstruction, if_pos valid, row]

section Decoded

variable {i : Instr} {s t : State}

theorem evaluateDecoded_of_condition_failed (failed : conditionPassed (currentCond s i) s.inst.cpsr = false) :
    evaluateDecoded i s = retire s.it s.inITBlock s.succeed := by
  rw [evaluateDecoded, executeStage, if_neg (Bool.eq_false_iff.1 failed)]
  rfl

theorem evaluateDecoded_of_completed (passed : conditionPassed (currentCond s i) s.inst.cpsr = true)
    (e : exec i s = .next t) (completed : t.fault = none) : evaluateDecoded i s = retire s.it s.inITBlock t := by
  rw [evaluateDecoded, executeStage, if_pos passed, e]
  exact if_pos completed

theorem evaluateDecoded_of_failed (passed : conditionPassed (currentCond s i) s.inst.cpsr = true)
    (e : exec i s = .next t) (failed : t.fault ≠ none) : evaluateDecoded i s = .next t := by
  rw [evaluateDecoded, executeStage, if_pos passed, e]
  exact if_neg failed

end Decoded

theorem Latch.bytes_eq (x : Latch) : x.bytes = BitVec.ofNat 32 (if x.width = .w16 then 2 else 4) := by
  unfold Latch.bytes
  cases x.width <;> rfl

/-- The state after the PC advance of rule R389. -/
def State.advanced (s : State) : State :=
  if s.params.autoAdvancePc && !s.pcWritten then s.afterWrite .advancePC 15 (s.inst.addr + s.inst.bytes) else s

theorem advancePC_served {s : State} (h : s.served) : advancePC s = .ok () s.advanced := by
  rw [advancePC, State.advanced]
  refine (bind_ok (handler_get s)).trans ((handler_ite _ _ _ s).trans ?_)
  split
  · exact writeReg_served h _ _ _
  · rfl

/-- Where the PC is advanced it is so by a tagged write, which sets `PC_WRITTEN` (10_state.md rule R28). -/
theorem State.advanced_of_advances {s : State} (h : s.params.autoAdvancePc = true ∧ s.pcWritten = false) :
    let next : Word := s.inst.addr + BitVec.ofNat 32 (if s.inst.width = .w16 then 2 else 4)
    s.advanced = { s.setCore 15 next with
      pcWritten := true, trace := .writeRegister .advancePC (.core 15) (next.setWidth 64) true :: s.trace } := by
  have test : (s.params.autoAdvancePc && !s.pcWritten) = true := by simp [h]
  rw [State.advanced, if_pos test, Latch.bytes_eq, State.afterWrite, h.2]
  rfl

theorem State.advanced_of_not {s : State} (h : ¬ (s.params.autoAdvancePc = true ∧ s.pcWritten = false)) : s.advanced = s :=
  if_neg (by simpa using h)

/-- A command whose condition failed or whose handler ended normally ends as rules R389 and R390 say. -/
theorem retire_served {s : State} (h : s.served) (start : ITSession) (wasInIT : Bool) :
    retire start wasInIT s = .next { s.retired wasInIT with stopped := s.stopped } := by
  rw [retire, advancePC_served h]
  by_cases advances : s.params.autoAdvancePc = true ∧ s.pcWritten = false
  · simp only [State.retired, if_pos advances, State.advanced_of_advances advances]
    cases wasInIT <;> rfl
  · simp only [State.retired, if_neg advances, State.advanced_of_not advances]
    cases wasInIT <;> rfl

section Retired

variable (s : State) (wasInIT : Bool)

theorem State.retired_core : (s.retired wasInIT).core =
    if s.params.autoAdvancePc = true ∧ s.pcWritten = false
      then (s.setCore 15 (s.inst.addr + BitVec.ofNat 32 (if s.inst.width = .w16 then 2 else 4))).core else s.core := by
  by_cases advances : s.params.autoAdvancePc = true ∧ s.pcWritten = false
  · simp only [State.retired, if_pos advances]
  · simp only [State.retired, if_neg advances]

/-- The PC advance and the IT advance leave the status register, `MODE`, memory, the extension registers and the latch alone. -/
theorem State.retired_frame : (s.retired wasInIT).status = s.status ∧ (s.retired wasInIT).mode = s.mode ∧
    (s.retired wasInIT).mem = s.mem ∧ (s.retired wasInIT).ext = s.ext ∧ (s.retired wasInIT).inst = s.inst := by
  by_cases advances : s.params.autoAdvancePc = true ∧ s.pcWritten = false
  · simp [State.retired, advances]
  · simp [State.retired, advances]

end Retired

/-- Settles O52: a latch that is not valid, a word without a row, and a condition that fails each end the command at their stage. -/
theorem evaluateWithoutAHandler : Obligations.EvaluateWithoutAHandler := by
  intro s
  refine ⟨evaluateInstruction_of_noLatch, evaluateInstruction_of_noRow, fun i valid row failed h => ?_⟩
  have run := (evaluateInstruction_of_row valid row).trans
    ((evaluateDecoded_of_condition_failed (s := s.beginEvaluate) failed).trans
      (retire_served (s := s.beginEvaluate.succeed) h s.it s.inITBlock))
  obtain ⟨status, mode, mem, ext, inst⟩ := State.retired_frame s.beginEvaluate.succeed s.inITBlock
  have notWritten : s.beginEvaluate.succeed.pcWritten = false := rfl
  have core := (State.retired_core s.beginEvaluate.succeed s.inITBlock).trans (if_congr (and_iff_left notWritten) rfl rfl)
  rw [apply_ite (BitVec.ofNat 32)] at core
  exact ⟨_, run, rfl, core, rfl, status, mode, mem, ext, congrArg Latch.valid inst⟩

/-! ## One turn of the run loop (R393) -/

theorem retire_next (start : ITSession) (wasInIT : Bool) (s : State) : ∃ t, retire start wasInIT s = .next t := by
  rw [retire]
  split
  · exact ⟨_, rfl⟩
  · exact ⟨_, rfl⟩

theorem evaluateInstruction_next (s : State) : ∃ t, evaluateInstruction s = .next t := by
  cases valid : s.inst.valid with
  | false => exact ⟨_, evaluateInstruction_of_noLatch valid⟩
  | true =>
    cases row : lookup s.params s.arch s.inst.mode s.inst.width s.inst.raw with
    | none => exact ⟨_, evaluateInstruction_of_noRow valid row⟩
    | some i =>
      rw [evaluateInstruction_of_row valid row]
      cases passed : conditionPassed (currentCond s.beginEvaluate i) s.beginEvaluate.inst.cpsr with
      | false => exact evaluateDecoded_of_condition_failed passed ▸ retire_next _ _ _
      | true =>
        obtain ⟨t, e, -⟩ := exec_next i s.beginEvaluate
        by_cases completed : t.fault = none
        · exact evaluateDecoded_of_completed passed e completed ▸ retire_next _ _ _
        · exact ⟨t, evaluateDecoded_of_failed passed e completed⟩

theorem hostStep_of_fetch_failed {s : State} (h : (readInstruction s).fault ≠ none) :
    hostStep s = .next (readInstruction s).stopIfFailed := if_neg h

theorem hostStep_of_fetched {s u : State} (h : (readInstruction s).fault = none)
    (e : evaluateInstruction (readInstruction s) = .next u) : hostStep s = .next u.stopIfFailed := by
  rw [hostStep]
  simp only [if_pos h, e]

/-- A turn answers a next state, the last one made of one that failed or not. -/
theorem hostStep_next (s : State) : ∃ u : State, hostStep s = .next u.stopIfFailed := by
  by_cases h : (readInstruction s).fault = none
  · obtain ⟨u, e⟩ := evaluateInstruction_next (readInstruction s)
    exact ⟨u, hostStep_of_fetched h e⟩
  · exact ⟨_, hostStep_of_fetch_failed h⟩

section Turn

variable {s : State}

theorem step_of_stopped (noAction : s.script = []) (stopped : s.stopped = true) : step s = .fault (.stopped s.fault) := by
  rw [step, machineStep, noAction]
  exact if_pos stopped

theorem step_of_halt (noAction : s.script = []) (running : s.stopped = false)
    (halt : s.params.haltAddress = some (s.getCore 15)) : step s = .fault .halted := by
  rw [step, machineStep, noAction]
  exact (if_neg (Bool.eq_false_iff.1 running)).trans (if_pos (beq_iff_eq.2 halt))

theorem step_of_running (noAction : s.script = []) (running : s.stopped = false)
    (noHalt : s.params.haltAddress ≠ some (s.getCore 15)) : step s = hostStep s := by
  rw [step, machineStep, noAction]
  exact (if_neg (Bool.eq_false_iff.1 running)).trans (if_neg (mt beq_iff_eq.1 noHalt))

end Turn

/-- Settles O57: each end of a run is the first test that holds, and a turn stops the run where its last command failed. -/
theorem runLoopStops : Obligations.RunLoopStops := by
  intro s noAction
  refine ⟨step_of_stopped noAction, step_of_halt noAction, fun running noHalt => ?_⟩
  obtain ⟨u, e⟩ := hostStep_next s
  exact ⟨_, (step_of_running noAction running noHalt).trans e, Option.isSome_iff_ne_none⟩

/-! ## Reset (70_reset_and_hazards.md rules R440, R441) -/

/-- Settles O41: the reset state has no memory, no session and no latch. -/
theorem invariantAtReset : Obligations.InvariantAtReset :=
  ⟨⟨.nil, nofun⟩, ⟨⟨fun _ => rfl, fun _ => rfl⟩, nofun⟩, nofun⟩

/-- Settles O56: each value is that of the definition, and without a latch no instruction is evaluated. -/
theorem resetValues : Obligations.ResetValues :=
  ⟨fun p s => ⟨rfl, rfl, rfl, rfl, rfl, rfl, rfl, rfl, rfl, rfl, rfl, rfl,
    evaluateInstruction_of_noLatch (s := newInstance p s) rfl⟩, rfl, rfl, rfl, rfl, rfl, rfl⟩

end Sys2Proof.Machine
end

section
/-! Proofs of the statements about a turn of the run loop (49_svc_driver.md rules R383, R384, R393): what `readInstruction` latches,
and that a turn runs the instruction whose bytes stand at the PC. -/

namespace Sys2Proof.Machine

/-! ## The fetch of one set (R383; 30_encoding.md rules R95, R96) -/

/-- `h` ends normally, has made successful reads alone and holds this latch. -/
def Latches (h : Handler Unit) (t : State) (x : Latch) : Prop :=
  ∃ reads : List PortCall, h t = .ok () { t with inst := x, trace := reads ++ t.trace } ∧
    ∀ c ∈ reads, c.isWrite = false ∧ c.ok = true

theorem latchInstruction_latches (x : Latch) (t : State) : Latches (latchInstruction x) t x := ⟨[], rfl, nofun⟩

section Fetch

variable {t : State} {pc cpsr : Word} {ctx : Context} {a : Word} {n : Nat} {v : DWord} {k : DWord → Handler Unit}

theorem memRead_then_latches {x : Latch} (h : t.served) (mapped : Memory.readLE t.mem a n = some v)
    (l : ∀ tr, Latches (k v) { t with trace := tr } x) : Latches (memRead ctx a n >>= k) t x := by
  obtain ⟨reads, e, ok⟩ := l (.readMemory ctx a n v true :: t.trace)
  refine ⟨reads ++ [.readMemory ctx a n v true], ?_, fun c hc => ?_⟩
  · rw [bind_ok (memRead_served h ctx mapped), List.append_assoc]
    exact e
  · obtain hr | hr := List.mem_append.1 hc
    · exact ok c hr
    · rw [List.mem_singleton.1 hr]
      exact ⟨rfl, rfl⟩

theorem memRead_then_raises {f : Failure} (h : t.served) (mapped : Memory.readLE t.mem a n = some v)
    (r : ∀ tr, ReadsThenRaises (k v) { t with trace := tr } f) : ReadsThenRaises (memRead ctx a n >>= k) t f :=
  OnlyReads.raises ⟨[.readMemory ctx a n v true], memRead_served h ctx mapped, by simp [PortCall.isWrite]⟩ r

/-- An ARM fetch of an aligned, mapped word. -/
theorem fetchArm_latches (h : t.served) (aligned : pc.extractLsb' 0 2 = 0) (mapped : Memory.readLE t.mem pc 4 = some v) :
    Latches (fetchArm pc cpsr) t
      { valid := true, raw := v.setWidth 32, width := .w32, mode := .arm, addr := pc, cpsr := cpsr } := by
  rw [fetchArm, if_neg (by simp [aligned])]
  exact memRead_then_latches h mapped fun tr => latchInstruction_latches _ _

theorem fetchArm_raises (h : t.served) (bad : pc.extractLsb' 0 2 ≠ 0 ∨ Memory.readLE t.mem pc 4 = none) :
    ∃ f, ReadsThenRaises (fetchArm pc cpsr) t f := by
  rw [fetchArm]
  split
  · exact ⟨.fetchFailure, [], rfl, nofun⟩
  · rename_i aligned
    exact ⟨_, (memRead_raises h .readOpcode (bad.resolve_left (by simpa using aligned))).bind⟩

/-- A Thumb fetch of a 16-bit instruction. -/
theorem fetchThumb_latches_narrow (h : t.served) (aligned : pc.getLsbD 0 = false) (mapped : Memory.readLE t.mem pc 2 = some v)
    (narrow : thumbIsWide (v.setWidth 16) = false) :
    Latches (fetchThumb pc cpsr) t
      { valid := true, raw := (v.setWidth 16).setWidth 32, width := .w16, mode := .thumb, addr := pc, cpsr := cpsr } := by
  rw [fetchThumb, if_neg (Bool.eq_false_iff.1 aligned)]
  refine memRead_then_latches h mapped fun tr => ?_
  rw [if_neg (by simp [narrow])]
  exact latchInstruction_latches _ _

/-- A Thumb fetch of a 32-bit instruction, first halfword on top. -/
theorem fetchThumb_latches_wide {v2 : DWord} (h : t.served) (aligned : pc.getLsbD 0 = false)
    (mapped : Memory.readLE t.mem pc 2 = some v) (wide : thumbIsWide (v.setWidth 16) = true)
    (mapped2 : Memory.readLE t.mem (pc + 2) 2 = some v2) :
    Latches (fetchThumb pc cpsr) t
      { valid := true, raw := v.setWidth 16 ++ v2.setWidth 16, width := .w32, mode := .thumb, addr := pc, cpsr := cpsr } := by
  rw [fetchThumb, if_neg (Bool.eq_false_iff.1 aligned)]
  refine memRead_then_latches h mapped fun tr => ?_
  rw [if_pos wide]
  exact memRead_then_latches (t := { t with trace := tr }) h mapped2 fun tr' => latchInstruction_latches _ _

theorem fetchThumb_raises_wide (h : t.served) (aligned : pc.getLsbD 0 = false)
    (mapped : Memory.readLE t.mem pc 2 = some v) (wide : thumbIsWide (v.setWidth 16) = true)
    (unmapped : Memory.readLE t.mem (pc + 2) 2 = none) : ∃ f, ReadsThenRaises (fetchThumb pc cpsr) t f := by
  rw [fetchThumb, if_neg (Bool.eq_false_iff.1 aligned)]
  refine ⟨.accessFailure, memRead_then_raises h mapped fun tr => ?_⟩
  rw [if_pos wide]
  exact (memRead_raises (s := { t with trace := tr }) h .readOpcode unmapped).bind

theorem fetchThumb_raises (h : t.served) (bad : pc.getLsbD 0 = true ∨ Memory.readLE t.mem pc 2 = none) :
    ∃ f, ReadsThenRaises (fetchThumb pc cpsr) t f := by
  rw [fetchThumb]
  split
  · exact ⟨.fetchFailure, [], rfl, nofun⟩
  · rename_i aligned
    exact ⟨_, (memRead_raises h .readOpcode (bad.resolve_left aligned)).bind⟩

end Fetch

/-! ## readInstruction (R383, 60_exceptions.md rule R404) -/

/-- The state in which the fetch of one set starts: the latch dropped, the status register and the PC read, `MODE` set. -/
def State.fetchStart (s : State) : State :=
  { s with
    mode := modeOf s.nextSet
    inst := { s.inst with valid := false }
    trace := .readRegister (.core 15) 0 ((s.getCore 15).setWidth 64) true ::
      .readRegister .status 0 (s.status.setWidth 64) true :: s.trace }

/-- The fetch of the set that bit T selects. -/
def fetchOf : InstrSet → Word → Word → Handler Unit
  | .arm => fetchArm
  | .thumb => fetchThumb

theorem nextSet_of_arm {s : State} (ht : flagT s.status = false) : s.nextSet = .arm := if_neg (Bool.eq_false_iff.1 ht)

theorem nextSet_of_thumb {s : State} (ht : flagT s.status = true) : s.nextSet = .thumb := if_pos ht

/-- The state after the first of the two register reads of the fetch. -/
def State.statusRead (s : State) : State :=
  s.dropLatch.note (.readRegister .status 0 (s.dropLatch.regValue .status) true)

/-- The two register reads of the fetch return the status register and the PC, and bit T selects the fetch. -/
theorem fetch_served {s : State} (h : s.served) : fetch s = fetchOf s.nextSet (s.getCore 15) s.status s.fetchStart := by
  have first : callRead (portReadRegister .status) s.dropLatch = .ok (s.dropLatch.regValue .status) s.statusRead :=
    readExt_served (s := s.dropLatch) h .status
  have second := readExt_served (s := s.statusRead) h (.core 15)
  have status : (s.dropLatch.regValue .status).setWidth 32 = s.status := BitVec.setWidth_setWidth_of_le _ (by decide)
  have pc : (s.statusRead.regValue (.core 15)).setWidth 32 = s.getCore 15 := BitVec.setWidth_setWidth_of_le _ (by decide)
  simp only [fetch, handler_bind, handler_modify, first, second, handler_ite, status, pc]
  cases ht : flagT s.status with
  | false =>
    rw [State.fetchStart, nextSet_of_arm ht]
    rfl
  | true =>
    rw [State.fetchStart, nextSet_of_thumb ht]
    rfl

/-- `readInstruction` latches this word: `MODE` follows, and only successful reads were made. -/
def LatchesWord (s : State) (raw : Word) (width : Width) : Prop :=
  ∃ reads : List PortCall, readInstruction s = { s with
      mode := modeOf s.nextSet
      inst := { valid := true, raw := raw, width := width, mode := s.nextSet, addr := s.getCore 15, cpsr := s.status }
      fault := none
      trace := reads ++ s.trace } ∧ ∀ c ∈ reads, c.isWrite = false ∧ c.ok = true

/-- `readInstruction` fails: `MODE` is Invalid, no latch is valid, and nothing else but the trace changed. -/
def FetchFails (s : State) : Prop :=
  (readInstruction s).fault = some .fetchFailure ∧ (readInstruction s).mode = .invalid ∧
    (readInstruction s).inst.valid = false ∧ (readInstruction s).it = s.it ∧ (readInstruction s).arch = s.arch ∧
    (readInstruction s).core = s.core ∧ (readInstruction s).mem = s.mem ∧ (readInstruction s).status = s.status

section Read

variable {s : State}

theorem latchesWord_of_fetch (h : s.served) {raw : Word} {width : Width}
    (l : Latches (fetchOf s.nextSet (s.getCore 15) s.status) s.fetchStart
      { valid := true, raw := raw, width := width, mode := s.nextSet, addr := s.getCore 15, cpsr := s.status }) :
    LatchesWord s raw width := by
  obtain ⟨reads, e, ok⟩ := l
  refine ⟨reads ++ [.readRegister (.core 15) 0 ((s.getCore 15).setWidth 64) true,
    .readRegister .status 0 (s.status.setWidth 64) true], ?_, fun c hc => ?_⟩
  · rw [readInstruction, fetch_served h, e, List.append_assoc]
    rfl
  · obtain hr | hr := List.mem_append.1 hc
    · exact ok c hr
    · fin_cases hr <;> exact ⟨rfl, rfl⟩

theorem fetchFails_of_fetch (h : s.served)
    (r : ∃ f, ReadsThenRaises (fetchOf s.nextSet (s.getCore 15) s.status) s.fetchStart f) : FetchFails s := by
  obtain ⟨f, reads, e, -⟩ := r
  rw [FetchFails, readInstruction, fetch_served h, e]
  exact ⟨rfl, rfl, rfl, rfl, rfl, rfl, rfl, rfl⟩

theorem latchesWord_arm {v : DWord} (h : s.served) (arm : s.nextSet = .arm) (aligned : (s.getCore 15).extractLsb' 0 2 = 0)
    (mapped : Memory.readLE s.mem (s.getCore 15) 4 = some v) : LatchesWord s (v.setWidth 32) .w32 := by
  apply latchesWord_of_fetch h
  rw [arm]
  exact fetchArm_latches h aligned mapped

/-- A value of two bytes is its low halfword. -/
theorem readLE_half {m : Memory} {a : Word} {v : DWord} (mapped : Memory.readLE m a 2 = some v) :
    (v.setWidth 16).setWidth 32 = v.setWidth 32 := by
  apply BitVec.eq_of_getLsbD_eq
  intro i hi
  rw [BitVec.getLsbD_setWidth, BitVec.getLsbD_setWidth, BitVec.getLsbD_setWidth]
  by_cases low : i < 16
  · simp [low]
  · simp [low, readLE_lt 2 mapped i (by omega)]

theorem latchesWord_narrow {v : DWord} (h : s.served) (thumb : s.nextSet = .thumb) (aligned : (s.getCore 15).getLsbD 0 = false)
    (mapped : Memory.readLE s.mem (s.getCore 15) 2 = some v) (narrow : thumbIsWide (v.setWidth 16) = false) :
    LatchesWord s (v.setWidth 32) .w16 := by
  apply latchesWord_of_fetch h
  rw [thumb, ← readLE_half mapped]
  exact fetchThumb_latches_narrow h aligned mapped narrow

theorem latchesWord_wide {v v2 : DWord} (h : s.served) (thumb : s.nextSet = .thumb) (aligned : (s.getCore 15).getLsbD 0 = false)
    (mapped : Memory.readLE s.mem (s.getCore 15) 2 = some v) (wide : thumbIsWide (v.setWidth 16) = true)
    (mapped2 : Memory.readLE s.mem (s.getCore 15 + 2) 2 = some v2) : LatchesWord s (v.setWidth 16 ++ v2.setWidth 16) .w32 := by
  apply latchesWord_of_fetch h
  rw [thumb]
  exact fetchThumb_latches_wide h aligned mapped wide mapped2

theorem fetchFails_arm (h : s.served) (arm : s.nextSet = .arm)
    (bad : (s.getCore 15).extractLsb' 0 2 ≠ 0 ∨ Memory.readLE s.mem (s.getCore 15) 4 = none) : FetchFails s := by
  apply fetchFails_of_fetch h
  rw [arm]
  exact fetchArm_raises h bad

theorem fetchFails_thumb (h : s.served) (thumb : s.nextSet = .thumb)
    (bad : (s.getCore 15).getLsbD 0 = true ∨ Memory.readLE s.mem (s.getCore 15) 2 = none) : FetchFails s := by
  apply fetchFails_of_fetch h
  rw [thumb]
  exact fetchThumb_raises h bad

theorem fetchFails_wide {v : DWord} (h : s.served) (thumb : s.nextSet = .thumb) (aligned : (s.getCore 15).getLsbD 0 = false)
    (mapped : Memory.readLE s.mem (s.getCore 15) 2 = some v) (wide : thumbIsWide (v.setWidth 16) = true)
    (unmapped : Memory.readLE s.mem (s.getCore 15 + 2) 2 = none) : FetchFails s := by
  apply fetchFails_of_fetch h
  rw [thumb]
  exact fetchThumb_raises_wide h aligned mapped wide unmapped

theorem LatchesWord.latched {raw : Word} {width : Width} (l : LatchesWord s raw width) :
    ∃ reads : List PortCall, readInstruction s = { s with
      mode := modeOf s.nextSet
      inst := { valid := true, raw := raw, width := width, mode := s.nextSet, addr := s.getCore 15, cpsr := s.status }
      fault := none
      trace := reads ++ s.trace } ∧ ∀ c ∈ reads, c.isWrite = false := by
  obtain ⟨reads, e, ok⟩ := l
  exact ⟨reads, e, fun c hc => (ok c hc).1⟩

end Read

/-- Settles O53: bit T selects the fetch, which latches what stands at the PC or raises. -/
theorem readingAnInstruction : Obligations.ReadingAnInstruction := by
  intro s h
  refine ⟨fun arm aligned v mapped => ?_, fun thumb aligned v mapped => ⟨fun narrow => ?_, fun wide => ⟨?_, ?_⟩⟩,
    fun arm bad => ?_, fun thumb bad => ?_⟩
  · exact (latchesWord_arm h (nextSet_of_arm arm) aligned mapped).latched
  · exact (latchesWord_narrow h (nextSet_of_thumb thumb) aligned mapped narrow).latched
  · exact fun v2 mapped2 => (latchesWord_wide h (nextSet_of_thumb thumb) aligned mapped wide mapped2).latched
  · exact fetchFails_wide h (nextSet_of_thumb thumb) aligned mapped wide
  · exact fetchFails_arm h (nextSet_of_arm arm) bad
  · exact fetchFails_thumb h (nextSet_of_thumb thumb) bad

/-! ## The bytes of an instruction at the PC (20_memory.md rule R64; 30_encoding.md rules R95, R96) -/

/-- These bytes stand in memory from `a` on. -/
def BytesAt (m : Memory) (a : Word) (l : List Byte) : Prop :=
  ∀ k, (h : k < l.length) → Memory.read? m (a + BitVec.ofNat 32 k).toNat = some l[k]

section Bytes

variable {m : Memory} {a : Word} {b : Byte} {l : List Byte}

theorem BytesAt.head (h : BytesAt m a (b :: l)) : Memory.read? m a.toNat = some b := by
  have first := h 0 (Nat.succ_pos _)
  rwa [show a + BitVec.ofNat 32 0 = a from BitVec.add_zero a] at first

theorem BytesAt.tail (h : BytesAt m a (b :: l)) : BytesAt m (a + 1) l := by
  intro k hk
  rw [word_add_ofNat_succ]
  exact h (k + 1) (Nat.succ_lt_succ hk)

/-- A byte below a value of `n` bits. -/
theorem setWidth_append_byte {n : Nat} (x : BitVec n) : (x ++ b).setWidth 64 = x.setWidth 64 <<< 8 ||| b.setWidth 64 := by
  apply BitVec.eq_of_getLsbD_eq
  intro i hi
  rw [BitVec.getLsbD_setWidth, BitVec.getLsbD_append, BitVec.getLsbD_or, BitVec.getLsbD_shiftLeft, BitVec.getLsbD_setWidth,
    BitVec.getLsbD_setWidth]
  by_cases low : i < 8
  · simp [low, hi]
  · have high : i - 8 < 64 := by omega
    simp [low, hi, high, BitVec.getLsbD_of_ge b i (by omega)]

theorem readLE_cons {n k : Nat} {x : BitVec n} (first : Memory.read? m a.toNat = some b)
    (rest : Memory.readLE m (a + 1) k = some (x.setWidth 64)) : Memory.readLE m a (k + 1) = some ((x ++ b).setWidth 64) := by
  rw [Memory.readLE, first, rest]
  exact congrArg some (setWidth_append_byte x).symm

theorem readLE_byte (h : Memory.read? m a.toNat = some b) : Memory.readLE m a 1 = some (b.setWidth 64) := by
  simp [Memory.readLE, h]

theorem BytesAt.readHalf {b0 b1 : Byte} (h : BytesAt m a (b0 :: b1 :: l)) :
    Memory.readLE m a 2 = some ((halfLE b0 b1).setWidth 64) :=
  readLE_cons h.head (readLE_byte h.tail.head)

theorem BytesAt.readWord {b0 b1 b2 b3 : Byte} (h : BytesAt m a [b0, b1, b2, b3]) :
    Memory.readLE m a 4 = some ((wordLE b0 b1 b2 b3).setWidth 64) :=
  readLE_cons h.head (readLE_cons h.tail.head (readLE_cons h.tail.tail.head
    (readLE_byte h.tail.tail.tail.head)))

end Bytes

section FetchesAt

variable {s : State} {i : Instr} {a : Word}

theorem aligned_of_maskPC_arm (h : maskPC .arm a = a) : a.extractLsb' 0 2 = 0 :=
  calc a.extractLsb' 0 2 = fld (a &&& 0xfffffffc) 0 2 := by rw [show a &&& 0xfffffffc = a from h, fld]
    _ = fld a 0 2 &&& 0 := fld_and ..
    _ = 0 := BitVec.and_zero

theorem aligned_of_maskPC_thumb (h : maskPC .thumb a = a) : a.getLsbD 0 = false :=
  calc a.getLsbD 0 = (a &&& 0xfffffffe).getLsbD 0 := by rw [show a &&& 0xfffffffe = a from h]
    _ = (a.getLsbD 0 && false) := BitVec.getLsbD_and ..
    _ = false := Bool.and_false _

theorem FetchesAt.bytesAt (f : FetchesAt s i) : BytesAt s.mem (s.getCore 15) (encodeBytes i) := f.2.2

theorem latchesWord_encode_arm (h : s.served) (arm : s.nextSet = .arm) (aligned : maskPC .arm (s.getCore 15) = s.getCore 15)
    (bytes : BytesAt s.mem (s.getCore 15) (encodeBytes i)) (form : i.form = (.arm, .w32)) : LatchesWord s (encode i) .w32 := by
  simp only [encodeBytes, form] at bytes
  have latched := latchesWord_arm h arm (aligned_of_maskPC_arm aligned) bytes.readWord
  rwa [wordLE_fld, BitVec.setWidth_setWidth_of_le _ (by decide), BitVec.setWidth_eq] at latched

theorem latchesWord_encode_narrow (h : s.served) (thumb : s.nextSet = .thumb)
    (aligned : maskPC .thumb (s.getCore 15) = s.getCore 15) (bytes : BytesAt s.mem (s.getCore 15) (encodeBytes i))
    (form : i.form = (.thumb, .w16)) : LatchesWord s (encode i) .w16 := by
  obtain ⟨r, hr, hits⟩ := exists_row_hits form
  simp only [encodeBytes, form] at bytes
  have mapped := bytes.readHalf
  rw [halfLE_fld _ 0] at mapped
  have latched := latchesWord_narrow h thumb (aligned_of_maskPC_thumb aligned) mapped
    (by rw [BitVec.setWidth_setWidth_of_le _ (by decide), BitVec.setWidth_eq]; exact thumb16Table_not_wide hr hits)
  rwa [BitVec.setWidth_setWidth_of_le _ (by decide), setWidth_fld_of_high (encode_w16_high form)] at latched

theorem latchesWord_encode_wide (h : s.served) (thumb : s.nextSet = .thumb)
    (aligned : maskPC .thumb (s.getCore 15) = s.getCore 15) (bytes : BytesAt s.mem (s.getCore 15) (encodeBytes i))
    (form : i.form = (.thumb, .w32)) : LatchesWord s (encode i) .w32 := by
  obtain ⟨r, hr, hits⟩ := exists_row_hits form
  simp only [encodeBytes, form] at bytes
  have mapped := bytes.readHalf
  have mapped2 := bytes.tail.tail.readHalf
  rw [halfLE_fld _ 16] at mapped
  rw [halfLE_fld _ 0, BitVec.add_assoc] at mapped2
  have latched := latchesWord_wide h thumb (aligned_of_maskPC_thumb aligned) mapped
    (by rw [BitVec.setWidth_setWidth_of_le _ (by decide), BitVec.setWidth_eq]; exact thumb32Table_isWide hr hits) mapped2
  rwa [BitVec.setWidth_setWidth_of_le _ (by decide), BitVec.setWidth_setWidth_of_le _ (by decide), BitVec.setWidth_eq,
    BitVec.setWidth_eq, halves_fld] at latched

/-- The fetch latches the word of the instruction whose bytes stand at the PC. -/
theorem FetchesAt.latchesWord (h : s.served) (f : FetchesAt s i) : LatchesWord s (encode i) i.form.2 := by
  have bytes := f.bytesAt
  obtain ⟨set, aligned, -⟩ := f
  rw [← set] at aligned
  rcases form : i.form with ⟨_ | _, _ | _⟩ <;> rw [form] at set aligned
  · obtain ⟨r, hr, -⟩ := exists_row_hits form
    exact absurd hr List.not_mem_nil
  · exact latchesWord_encode_arm h set.symm aligned bytes form
  · exact latchesWord_encode_narrow h set.symm aligned bytes form
  · exact latchesWord_encode_wide h set.symm aligned bytes form

end FetchesAt

/-! ## A whole turn (R384, R386, R389, R390, R393) -/

section Turn

variable {s : State} {i : Instr}

/-- A turn at the bytes of an instruction with a row is `evaluateDecoded` of that instruction, run where its handler starts. -/
theorem step_of_fetchesAt (h : s.served) (noAction : s.script = []) (running : s.stopped = false)
    (noHalt : s.params.haltAddress ≠ some (s.getCore 15)) (f : FetchesAt s i)
    (row : lookup s.params s.arch s.nextSet i.form.2 (encode i) = some i) :
    ∃ reads : List PortCall, (∀ c ∈ reads, c.isWrite = false ∧ c.ok = true) ∧
      ∀ u, evaluateDecoded i (s.fetched i reads) = .next u → step s = .next u.stopIfFailed := by
  obtain ⟨reads, fetch, ok⟩ := f.latchesWord h
  refine ⟨reads, ok, fun u e => (step_of_running noAction running noHalt).trans (hostStep_of_fetched ?_ ?_)⟩
  · rw [fetch]
  · rw [fetch]
    exact (evaluateInstruction_of_row rfl row).trans e

end Turn

/-- Settles O45: the fetch latches the instruction's word, its row decodes it, and the end of its handler is the end of the turn. -/
theorem stepRunsTheDecodedInstruction : Obligations.StepRunsTheDecodedInstruction := by
  intro s i h noAction running noHalt f row
  obtain ⟨reads, ok, turn⟩ := step_of_fetchesAt h noAction running noHalt f row
  refine ⟨reads, ok, fun failed => ?_, fun passed t e => ⟨fun completed => ?_, fun failed => ?_⟩⟩
  · exact turn _ ((evaluateDecoded_of_condition_failed failed).trans
      (retire_served (s := (s.fetched i reads).succeed) h _ _))
  · have served : t.served := (exec_settings e).refusals.trans h
    exact turn _ ((evaluateDecoded_of_completed passed e completed).trans (retire_served served _ _))
  · rw [turn t (evaluateDecoded_of_failed passed e failed), State.stopIfFailed, Option.isSome_iff_ne_none.2 failed]

end Sys2Proof.Machine
end
